-- ==== Sys2Proof/Config.lean ====
section
/-!
DEFINITION. The parameters of the machine (00_scope.md R9) as one record of plain data, their recommended values, and the
values the spec leaves open: opaque constants, of which nothing can be proved.

DESIGN CHOICE (log 2, unsafe): the record is carried in the state and no step changes it, so a statement about every state
holds for every choice of the parameters; `State.reset` holds the recommended values.
-/

namespace Sys2Proof

/-- `HALT_PENDING_IME0` (R9, R352): what `HALT` does with `IME = 0` and an enabled interrupt pending. -/
inductive HaltPending where
  | fault
  | nop
  | refetch
deriving DecidableEq, Repr

/-- `JOYPAD_IRQ` (R9, R463): whether a button snapshot requests interrupt 4. -/
inductive JoypadIrq where
  | draw
  | never
  | onPress
deriving DecidableEq, Repr

/-- The numeric and choice parameters of R9, and its two tables that the header bytes index. `COLOR_MODE`, the ROM image and the
sizes that the header selects are fixed at power-up and stand in the state beside this record; `RESET` and `INITIAL_MEMORY` are
arguments of `powerUp`. -/
structure Config where
  /-- `DOTS_PER_TICK`: PPU dots in one `Tick()` (R440). -/
  dotsPerTick : Nat
  /-- `DIV_PERIOD_TICKS` (R443). -/
  divPeriodTicks : Nat
  /-- `TIMA_PERIOD[0]` (R446). -/
  timaPeriod0 : Nat
  /-- `TIMA_PERIOD[1]`. -/
  timaPeriod1 : Nat
  /-- `TIMA_PERIOD[2]`. -/
  timaPeriod2 : Nat
  /-- `TIMA_PERIOD[3]`. -/
  timaPeriod3 : Nat
  /-- `SERIAL_DELAY_TICKS` (R452). -/
  serialDelayTicks : Nat
  /-- `RAM_DISABLED_SENTINEL` (R139). -/
  ramDisabledSentinel : Byte
  /-- `AUDIO_READ_SENTINEL` (R470). -/
  audioReadSentinel : Byte
  /-- `KEY1_READ_SENTINEL` (R97). -/
  key1ReadSentinel : Byte
  /-- `OAM_DMA_TICKS_PER_BYTE` (R110). -/
  oamDmaTicksPerByte : Nat
  /-- `TICK_BEFORE_ACCESS` (R15). -/
  tickBeforeAccess : Bool
  /-- `DRAW_PENALTY_DOTS` (R497). -/
  drawPenaltyDots : Nat
  /-- `HALT_PENDING_IME0` (R352). -/
  haltPendingIme0 : HaltPending
  /-- `JOYPAD_IRQ` (R463). -/
  joypadIrq : JoypadIrq
  /-- `RAM_SIZE_BYTES[class]`, for class 0 to 5 (R133). -/
  ramSizeBytes : Vector Nat 6
  /-- `ROM_BANKS[class]`, for class 0 to 6 (R132). -/
  romBanks : Vector Nat 7
deriving DecidableEq, Repr

/-- The recommended values of R9. -/
def Config.recommended : Config where
  dotsPerTick := 1
  divPeriodTicks := 1
  timaPeriod0 := 256
  timaPeriod1 := 4
  timaPeriod2 := 16
  timaPeriod3 := 64
  serialDelayTicks := 8
  ramDisabledSentinel := 0xFF#8
  audioReadSentinel := 0xFF#8
  key1ReadSentinel := 0xFF#8
  oamDmaTicksPerByte := 0
  tickBeforeAccess := true
  drawPenaltyDots := 0
  haltPendingIme0 := .fault
  joypadIrq := .draw
  ramSizeBytes := #v[0, 2048, 8192, 32768, 131072, 65536]
  romBanks := #v[2, 4, 8, 16, 32, 64, 128]

/-- Free values (log 9): whether the `n`-th button snapshot of a machine with `JOYPAD_IRQ = draw` requests interrupt 4.
R463 lets it happen or not; nothing constrains it. -/
opaque Config.freeBool : Nat → Bool

/-- Free values (log 10): the bytes of a tile row for which R502 states no value. Nothing constrains them. -/
opaque Config.freeByte : Nat → Byte

/-- `SHADE32` (R9, R520): the host's conversion of a shade to a 32-bit cell, which no source gives (log 11). -/
opaque Config.shade32 : BitVec 2 → BitVec 32

/-- `RGB555_TO_32` (R9, R520): the host's conversion of a colour to a 32-bit cell, which no source gives (log 11). -/
opaque Config.rgb555To32 : BitVec 15 → BitVec 32

end Sys2Proof
end

