-- ==== Sys2Proof/Syntax.lean ====
section
/-!
DEFINITION. The instructions of gb-emu CORE: one constructor per row of spec/opcode_table.json, in the table's order, with
the operand forms of 10_state.md R23, R24, R28 and 30_encoding.md R163.
-/

namespace Sys2Proof

/-- The registers an 8-bit register operand can name (R23). Index 6, the byte at `HL`, is no register: the forms that use it
are constructors of their own. -/
inductive Reg8 where
  | b
  | c
  | d
  | e
  | h
  | l
  | a
deriving DecidableEq, Repr

/-- `r16[i]`, the pair operand of loads and 16-bit arithmetic (R24). -/
inductive Reg16 where
  | bc
  | de
  | hl
  | sp
deriving DecidableEq, Repr

/-- `r16stk[i]`, the pair operand of `PUSH` and `POP` (R24). -/
inductive Reg16Stk where
  | bc
  | de
  | hl
  | af
deriving DecidableEq, Repr

/-- The condition field `cc` (R28). -/
inductive Cond where
  | nz
  | z
  | nc
  | c
deriving DecidableEq, Repr

/-- The instructions. `n` and `e` are bytes as fetched (`e` is read as two's complement where it is used), `nn` is the
little-endian pair of operand bytes, `bn` a bit number, `t` the target address of `RST`, `sub` the byte after 0xCB (R163). -/
inductive Instr where
  /-- `NOP` (R351). -/
  | nop
  /-- `LD rr,nn` (R231). -/
  | ldRrNn (rr : Reg16) (nn : Word)
  /-- `LD (BC),A` (R208). -/
  | ldBcA
  /-- `LD (DE),A` (R209). -/
  | ldDeA
  /-- `LD (HL+),A` (R216). -/
  | ldHliA
  /-- `LD (HL-),A` (R218). -/
  | ldHldA
  /-- `INC rr` (R292). -/
  | incRr (rr : Reg16)
  /-- `DEC rr` (R293). -/
  | decRr (rr : Reg16)
  /-- `INC r` (R275). -/
  | incR (r : Reg8)
  /-- `INC (HL)` (R276). -/
  | incHl
  /-- `DEC r` (R277). -/
  | decR (r : Reg8)
  /-- `DEC (HL)` (R278). -/
  | decHl
  /-- `LD r,n` (R202). -/
  | ldRN (r : Reg8) (n : Byte)
  /-- `LD (HL),n` (R205). -/
  | ldHlN (n : Byte)
  /-- `RLCA` (R301). -/
  | rlca
  /-- `RRCA` (R302). -/
  | rrca
  /-- `RLA` (R303). -/
  | rla
  /-- `RRA` (R304). -/
  | rra
  /-- `DAA` (R279). -/
  | daa
  /-- `CPL` (R280). -/
  | cpl
  /-- `SCF` (R281). -/
  | scf
  /-- `CCF` (R282). -/
  | ccf
  /-- `LD (nn),SP` (R232). -/
  | ldNnSp (nn : Word)
  /-- `STOP` (R353). -/
  | stop
  /-- `JR e` (R334). -/
  | jrE (e : Byte)
  /-- `JR cc,e` (R335). -/
  | jrCcE (cc : Cond) (e : Byte)
  /-- `ADD HL,rr` (R291). -/
  | addHlRr (rr : Reg16)
  /-- `LD A,(BC)` (R206). -/
  | ldABc
  /-- `LD A,(DE)` (R207). -/
  | ldADe
  /-- `LD A,(HL+)` (R217). -/
  | ldAHli
  /-- `LD A,(HL-)` (R219). -/
  | ldAHld
  /-- `LD r,r'` (R201). -/
  | ldRR (r r' : Reg8)
  /-- `LD r,(HL)` (R203). -/
  | ldRHl (r : Reg8)
  /-- `LD (HL),r` (R204). -/
  | ldHlR (r : Reg8)
  /-- `HALT` (R352). -/
  | halt
  /-- `ADD A,r` (R251). -/
  | addAR (r : Reg8)
  /-- `ADD A,(HL)` (R252). -/
  | addAHl
  /-- `ADC A,r` (R254). -/
  | adcAR (r : Reg8)
  /-- `ADC A,(HL)` (R255). -/
  | adcAHl
  /-- `SUB r` (R257). -/
  | subR (r : Reg8)
  /-- `SUB (HL)` (R258). -/
  | subHl
  /-- `SBC A,r` (R260). -/
  | sbcAR (r : Reg8)
  /-- `SBC A,(HL)` (R261). -/
  | sbcAHl
  /-- `AND r` (R263). -/
  | andR (r : Reg8)
  /-- `AND (HL)` (R264). -/
  | andHl
  /-- `XOR r` (R266). -/
  | xorR (r : Reg8)
  /-- `XOR (HL)` (R267). -/
  | xorHl
  /-- `OR r` (R269). -/
  | orR (r : Reg8)
  /-- `OR (HL)` (R270). -/
  | orHl
  /-- `CP r` (R272). -/
  | cpR (r : Reg8)
  /-- `CP (HL)` (R273). -/
  | cpHl
  /-- `RET cc` (R339). -/
  | retCc (cc : Cond)
  /-- `LDH (n),A` (R215). -/
  | ldhNA (n : Byte)
  /-- `ADD SP,e` (R294). -/
  | addSpE (e : Byte)
  /-- `LDH A,(n)` (R214). -/
  | ldhAN (n : Byte)
  /-- `LD HL,SP+e` (R234). -/
  | ldHlSpE (e : Byte)
  /-- `POP rr` (R236). -/
  | popQq (qq : Reg16Stk)
  /-- `RET` (R338). -/
  | ret
  /-- `RETI` (R340). -/
  | reti
  /-- `JP HL` (R333). -/
  | jpHl
  /-- `LD SP,HL` (R233). -/
  | ldSpHl
  /-- `JP cc,nn` (R332). -/
  | jpCcNn (cc : Cond) (nn : Word)
  /-- `LDH (C),A` (R213). -/
  | ldhCA
  /-- `LD (nn),A` (R211). -/
  | ldNnA (nn : Word)
  /-- `LDH A,(C)` (R212). -/
  | ldhAC
  /-- `LD A,(nn)` (R210). -/
  | ldANn (nn : Word)
  /-- `JP nn` (R331). -/
  | jpNn (nn : Word)
  /-- `PREFIX CB` (R357). -/
  | prefixCb (sub : Byte)
  /-- `DI` (R354). -/
  | di
  /-- `EI` (R355). -/
  | ei
  /-- `CALL cc,nn` (R337). -/
  | callCcNn (cc : Cond) (nn : Word)
  /-- `PUSH rr` (R235). -/
  | pushQq (qq : Reg16Stk)
  /-- `CALL nn` (R336). -/
  | callNn (nn : Word)
  /-- `ADD A,n` (R253). -/
  | addAN (n : Byte)
  /-- `ADC A,n` (R256). -/
  | adcAN (n : Byte)
  /-- `SUB n` (R259). -/
  | subN (n : Byte)
  /-- `SBC A,n` (R262). -/
  | sbcAN (n : Byte)
  /-- `AND n` (R265). -/
  | andN (n : Byte)
  /-- `XOR n` (R268). -/
  | xorN (n : Byte)
  /-- `OR n` (R271). -/
  | orN (n : Byte)
  /-- `CP n` (R274). -/
  | cpN (n : Byte)
  /-- `RST t` (R343). -/
  | rstT (t : Byte)
  /-- `ILLEGAL_D3` (R356). -/
  | illegalD3
  /-- `ILLEGAL_DB` (R356). -/
  | illegalDB
  /-- `ILLEGAL_DD` (R356). -/
  | illegalDD
  /-- `ILLEGAL_E3` (R356). -/
  | illegalE3
  /-- `ILLEGAL_E4` (R356). -/
  | illegalE4
  /-- `ILLEGAL_EB` (R356). -/
  | illegalEB
  /-- `ILLEGAL_EC` (R356). -/
  | illegalEC
  /-- `ILLEGAL_ED` (R356). -/
  | illegalED
  /-- `ILLEGAL_F4` (R356). -/
  | illegalF4
  /-- `ILLEGAL_FC` (R356). -/
  | illegalFC
  /-- `ILLEGAL_FD` (R356). -/
  | illegalFD
  /-- `RLC r` (R305). -/
  | rlcR (r : Reg8)
  /-- `RLC (HL)` (R306). -/
  | rlcHl
  /-- `RRC r` (R307). -/
  | rrcR (r : Reg8)
  /-- `RRC (HL)` (R308). -/
  | rrcHl
  /-- `RL r` (R309). -/
  | rlR (r : Reg8)
  /-- `RL (HL)` (R310). -/
  | rlHl
  /-- `RR r` (R311). -/
  | rrR (r : Reg8)
  /-- `RR (HL)` (R312). -/
  | rrHl
  /-- `SLA r` (R313). -/
  | slaR (r : Reg8)
  /-- `SLA (HL)` (R314). -/
  | slaHl
  /-- `SRA r` (R315). -/
  | sraR (r : Reg8)
  /-- `SRA (HL)` (R316). -/
  | sraHl
  /-- `SWAP r` (R317). -/
  | swapR (r : Reg8)
  /-- `SWAP (HL)` (R318). -/
  | swapHl
  /-- `SRL r` (R319). -/
  | srlR (r : Reg8)
  /-- `SRL (HL)` (R320). -/
  | srlHl
  /-- `BIT b,r` (R321). -/
  | bitBR (bn : Fin 8) (r : Reg8)
  /-- `BIT b,(HL)` (R322). -/
  | bitBHl (bn : Fin 8)
  /-- `RES b,r` (R323). -/
  | resBR (bn : Fin 8) (r : Reg8)
  /-- `RES b,(HL)` (R324). -/
  | resBHl (bn : Fin 8)
  /-- `SET b,r` (R325). -/
  | setBR (bn : Fin 8) (r : Reg8)
  /-- `SET b,(HL)` (R326). -/
  | setBHl (bn : Fin 8)
deriving DecidableEq, Repr

end Sys2Proof
end

