-- ==== Sys2Proof/Machine/State.lean ====
section
/-!
DEFINITION. The state of the machine (10_state.md), its stops, and the state right after power-up (R48, R560).

The state is one record of plain data, grouped as the spec groups it. Every memory array is a list of (index, byte) pairs in one
canonical form (strictly rising indexes, no entry equal to what an unlisted index reads as); an unlisted byte reads 0x00.
DESIGN CHOICE (log 1, unsafe): the spec leaves the power-up contents of memory open (R565).
-/

namespace Sys2Proof.Machine

/-- The two kinds of bus access that a fault records (R80). -/
inductive AccessKind where
  | read
  | write
deriving DecidableEq, Repr

/-- The closed list of fault reasons with what they record (60_exceptions.md R420). A reason is stored in `State.fault` by the
step that raises it, which answers the next state with everything written before it kept (R17, R401); `step` of a machine
whose `fault` is set answers that reason (log 4). All of them are the spec's own, so stopping there is safe. -/
inductive Fault where
  /-- Raised by the eleven illegal opcodes (R356), with the opcode byte and its address. Safe. -/
  | illegalOpcode (op : Byte) (addr : Word)
  /-- Raised by any bus access to an address with no owner (R80), the two DMA engines' reads among them. Safe. -/
  | unmappedAccess (addr : Word) (kind : AccessKind)
  /-- Raised by `STOP` (R353), with its address. Safe. -/
  | unmodelledStop (addr : Word)
  /-- Raised by `HALT` with `IME = 0` and `pending` not zero, when `HALT_PENDING_IME0 = fault` (R352). Safe. -/
  | haltWithPendingInterrupt (pending : BitVec 5)
  /-- Raised by an access to cartridge RAM of a TypeB mapper with the gate open and a bank above 3 (R143). Safe. -/
  | unmodelledMapperFeature (addr : Word) (bank : BitVec 4)
  /-- Set by power-up for an unsupported mapper byte (R131). Safe. -/
  | unsupportedMapper (t : Byte)
  /-- Set by power-up for a bad size byte or a short image (R132, R133); the number is the offending header byte, or the
  length of an image that ends before byte 0x148 (log 12). Safe. -/
  | badRomImage (info : Nat)
deriving DecidableEq, Repr

/-- What the model refuses, by name. -/
inductive Refusal where
  /-- Answered by an arm of `exec` whose instruction has no meaning yet. Safe. -/
  | notModelled (mnemonic : String)
  /-- Answered by `powerUp` for a save image whose length is not the cartridge RAM's: outside the spec (R134, log 13). Safe. -/
  | saveLengthMismatch
deriving DecidableEq, Repr

/-- The four flags, bits 7 to 4 of `F` (R22, R27). Bits 3 to 0 of `F` are no state (92_eei_decisions.md D56). -/
structure Flags where
  z : Bool
  n : Bool
  h : Bool
  c : Bool
deriving DecidableEq, Repr

/-- CPU registers and latches (R20, R25, R26, R29, R30). -/
structure Cpu where
  a : Byte
  flags : Flags
  b : Byte
  c : Byte
  d : Byte
  e : Byte
  h : Byte
  l : Byte
  sp : Word
  pc : Word
  ime : Bool
  halted : Bool
deriving DecidableEq, Repr

/-- The interrupt registers (R31): `IE` stores 8 bits, `IF` five. -/
structure Irq where
  ie : Byte
  iflag : BitVec 5
deriving DecidableEq, Repr

/-- Divider and timer (R32) with their hidden counters (R33). -/
structure Timer where
  div : Byte
  tima : Byte
  tma : Byte
  tac : BitVec 3
  divCnt : Nat
  tCnt : Nat
deriving DecidableEq, Repr

/-- Serial registers and the countdown (R34). -/
structure Serial where
  sb : Byte
  sc : Byte
  cnt : Nat
deriving DecidableEq, Repr

/-- The joypad latch (R35): true is pressed. -/
structure Buttons where
  right : Bool
  left : Bool
  up : Bool
  down : Bool
  a : Bool
  b : Bool
  select : Bool
  start : Bool
deriving DecidableEq, Repr

/-- The joypad (R35): `JOYP_SEL` and the latch. -/
structure Joypad where
  sel : BitVec 2
  buttons : Buttons
deriving DecidableEq, Repr

/-- The PPU modes (R39), numbered 0, 1, 2, 3 in `STAT[1:0]`. -/
inductive PpuMode where
  | hBlank
  | vBlank
  | oamScan
  | draw
deriving DecidableEq, Repr

/-- The PPU registers (R37 to R39) and the PPU's internal state (R41). `stat` is the stored part, `STAT[6:3]`. -/
structure Ppu where
  lcdc : Byte
  stat : BitVec 4
  mode : PpuMode
  scy : Byte
  scx : Byte
  ly : Byte
  lyc : Byte
  dma : Byte
  bgp : Byte
  obp0 : Byte
  obp1 : Byte
  wy : Byte
  wx : Byte
  dot : Nat
  lx : Nat
  bgStep : BitVec 3
  bgValid : Bool
  bgLo : Byte
  bgHi : Byte
  bgAttr : Byte
  winActive : Bool
  drawWait : Nat
deriving DecidableEq, Repr

/-- The Colour-mode registers and the hidden state of the VRAM DMA (R43). -/
structure Colour where
  vbk : BitVec 1
  svbk : BitVec 3
  hdma1 : Byte
  hdma2 : Byte
  hdma3 : Byte
  hdma4 : Byte
  bcpsAuto : Bool
  bcpsIndex : BitVec 6
  ocpsAuto : Bool
  ocpsIndex : BitVec 6
  hdmaSrc : Word
  hdmaDst : Word
  hdmaLeft : Nat
  hdmaActive : Bool
deriving DecidableEq, Repr

/-- The mapper variants (R46, R131). -/
inductive MapperKind where
  | none
  | typeA
  | typeB
deriving DecidableEq, Repr

/-- The cartridge (R46): what the header fixes at power-up, and the mapper's registers. -/
structure Cart where
  kind : MapperKind
  romSize : Nat
  romBanks : Nat
  ramSize : Nat
  ramEnable : Bool
  romBankReg : BitVec 7
  ramBankReg : BitVec 4
  bankMode : Bool
deriving DecidableEq, Repr

/-- The memory arrays (R44, R36, R43). `wram` holds bank `k` at `4096 * k`, `vram` bank `k` at `8192 * k`, `rom` bank `k` at
`16384 * k`. -/
structure Memory where
  rom : List Host.Cell
  wram : List Host.Cell
  vram : List Host.Cell
  oam : List Host.Cell
  hram : List Host.Cell
  cartRam : List Host.Cell
  bgCram : List Host.Cell
  objCram : List Host.Cell
  audio : List Host.Cell
deriving DecidableEq, Repr

/-- A pixel value (R42, R520): a shade, or a 15-bit colour with red in bits 4:0. -/
inductive Pixel where
  | shade (s : BitVec 2)
  | rgb (c : BitVec 15)
deriving DecidableEq, Repr

/-- The whole machine. -/
structure State where
  cpu : Cpu
  irq : Irq
  timer : Timer
  serial : Serial
  joypad : Joypad
  ppu : Ppu
  colour : Colour
  cart : Cart
  mem : Memory
  /-- `FB` (R42): pixel `(x, y)` at index `160 * y + x`, in the same canonical form as memory. -/
  fb : List (Nat × Pixel)
  /-- `FAULT` (R40). -/
  fault : Option Fault
  /-- `COLOR_MODE` (R6), fixed at power-up. -/
  colorMode : Bool
  /-- The parameters (R9), fixed at power-up (log 2). -/
  cfg : Config
  /-- The model's own: the `FrameReady` events handed out so far (R525, log 11). -/
  frameCount : Nat
  /-- The model's own: the buffer the last `FrameReady` carried (R525, log 11). -/
  lastFrame : Option (List (Nat × Pixel))
  /-- The model's own: the host's button snapshots still to come, those before the next step first (R12, R462, log 8). -/
  hostQueue : List (List Buttons)
  /-- The model's own: the byte that `HALT`'s refetch read is `HALT` again (R352), and the next step runs it before anything else,
  which is the rest of the same step of the spec (log 7). -/
  haltAgain : Bool
  /-- The model's own: the index of the next free value (logs 9 and 10). -/
  freeCount : Nat
deriving DecidableEq, Repr

/-- Nothing pressed (R35). -/
def Buttons.released : Buttons := ⟨false, false, false, false, false, false, false, false⟩

/-- The machine right after power-up: the DMG column of R48 with the recommended parameters (R9), no memory byte listed
(INITIAL_MEMORY, log 1), and a 32 KiB cartridge with no mapper and no RAM whose image is all zero bytes, which stands for the
program that the host loads from outside (log 3). -/
def State.reset : State where
  cpu := {
    a := 0x01#8, flags := ⟨true, false, true, true⟩, b := 0x00#8, c := 0x13#8, d := 0x00#8, e := 0xD8#8, h := 0x01#8, l := 0x4D#8,
    sp := 0xFFFE#16, pc := 0x0100#16, ime := false, halted := false }
  irq := { ie := 0x00#8, iflag := 0b00001#5 }
  timer := { div := 0xAB#8, tima := 0x00#8, tma := 0x00#8, tac := 0#3, divCnt := 0, tCnt := 0 }
  serial := { sb := 0x00#8, sc := 0x7E#8, cnt := 0 }
  joypad := { sel := 0#2, buttons := .released }
  ppu := {
    lcdc := 0x91#8, stat := 0#4, mode := .oamScan, scy := 0x00#8, scx := 0x00#8, ly := 0x00#8, lyc := 0x00#8, dma := 0xFF#8,
    bgp := 0xFC#8, obp0 := 0xFF#8, obp1 := 0xFF#8, wy := 0x00#8, wx := 0x00#8, dot := 0, lx := 0, bgStep := 0#3,
    bgValid := false, bgLo := 0x00#8, bgHi := 0x00#8, bgAttr := 0x00#8, winActive := false, drawWait := 0 }
  colour := {
    vbk := 0#1, svbk := 0#3, hdma1 := 0xFF#8, hdma2 := 0xFF#8, hdma3 := 0xFF#8, hdma4 := 0xFF#8, bcpsAuto := false,
    bcpsIndex := 0#6, ocpsAuto := false, ocpsIndex := 0#6, hdmaSrc := 0x0000#16, hdmaDst := 0x0000#16, hdmaLeft := 0,
    hdmaActive := false }
  cart := {
    kind := .none, romSize := 32768, romBanks := 2, ramSize := 0, ramEnable := false, romBankReg := 1#7, ramBankReg := 0#4,
    bankMode := false }
  mem := { rom := [], wram := [], vram := [], oam := [], hram := [], cartRam := [], bgCram := [], objCram := [], audio := [] }
  fb := []
  fault := none
  colorMode := false
  cfg := Config.recommended
  frameCount := 0
  lastFrame := none
  hostQueue := []
  haltAgain := false
  freeCount := 0

end Sys2Proof.Machine
end

