-- ==== Sys2Proof/Machine/Regs.lean ====
section
/-!
DEFINITION. The register file (10_state.md R20 to R28): 8-bit registers, pair views, the flags byte, condition predicates, and the
byte-order and sign-extension helpers of 00_scope.md R13.
-/

namespace Sys2Proof.Machine

/-! ### Bit helpers (R13) -/

/-- `v[7:0]` of a 16-bit value. -/
def lowByte (v : Word) : Byte := v.extractLsb' 0 8

/-- `v[15:8]` of a 16-bit value. -/
def highByte (v : Word) : Byte := v.extractLsb' 8 8

/-- `{hi, lo}`. -/
def joinBytes (hi lo : Byte) : Word := hi ++ lo

/-- `sext_16(e)`. -/
def sext16 (e : Byte) : Word := e.signExtend 16

/-- `{0xFF, n}`, the high-page address of `LDH` (R163). -/
def highPage (n : Byte) : Word := joinBytes 0xFF#8 n

/-! ### The flags byte (R22, R27) -/

/-- `F = {fZ, fN, fH, fC, 0, 0, 0, 0}` (R27). -/
def Flags.toByte (f : Flags) : Byte :=
  BitVec.ofBool f.z ++ BitVec.ofBool f.n ++ BitVec.ofBool f.h ++ BitVec.ofBool f.c ++ 0#4

/-- The flags that a byte written to `F` leaves: bits 7 to 4, the others dropped (R22). -/
def Flags.ofByte (v : Byte) : Flags :=
  ⟨v.getLsbD 7, v.getLsbD 6, v.getLsbD 5, v.getLsbD 4⟩

/-- `Cond(cc)` (R28). -/
def condHolds (cc : Cond) (f : Flags) : Bool :=
  match cc with
  | .nz => !f.z
  | .z => f.z
  | .nc => !f.c
  | .c => f.c

/-! ### 8-bit registers (R20, R23) -/

/-- The value of an 8-bit register. -/
def Cpu.get8 (p : Cpu) : Reg8 → Byte
  | .b => p.b
  | .c => p.c
  | .d => p.d
  | .e => p.e
  | .h => p.h
  | .l => p.l
  | .a => p.a

/-- The registers with one 8-bit register written. -/
def Cpu.set8 (p : Cpu) (r : Reg8) (v : Byte) : Cpu :=
  match r with
  | .b => { p with b := v }
  | .c => { p with c := v }
  | .d => { p with d := v }
  | .e => { p with e := v }
  | .h => { p with h := v }
  | .l => { p with l := v }
  | .a => { p with a := v }

/-! ### Pair views (R21, R24): the first-named register is the high byte -/

/-- `BC`. -/
def Cpu.bc (p : Cpu) : Word := joinBytes p.b p.c

/-- `DE`. -/
def Cpu.de (p : Cpu) : Word := joinBytes p.d p.e

/-- `HL`. -/
def Cpu.hl (p : Cpu) : Word := joinBytes p.h p.l

/-- `AF`. -/
def Cpu.af (p : Cpu) : Word := joinBytes p.a p.flags.toByte

/-- `HL <- v`. -/
def Cpu.setHl (p : Cpu) (v : Word) : Cpu := { p with h := highByte v, l := lowByte v }

/-- `r16[i]` (R24). -/
def Cpu.get16 (p : Cpu) : Reg16 → Word
  | .bc => p.bc
  | .de => p.de
  | .hl => p.hl
  | .sp => p.sp

/-- `r16[i] <- v` (R24). -/
def Cpu.set16 (p : Cpu) (rr : Reg16) (v : Word) : Cpu :=
  match rr with
  | .bc => { p with b := highByte v, c := lowByte v }
  | .de => { p with d := highByte v, e := lowByte v }
  | .hl => p.setHl v
  | .sp => { p with sp := v }

/-- `r16stk[i]` (R24). -/
def Cpu.getStk (p : Cpu) : Reg16Stk → Word
  | .bc => p.bc
  | .de => p.de
  | .hl => p.hl
  | .af => p.af

/-- `r16stk[i] <- v` (R24); a write of `AF` keeps only bits 7 to 4 of the low byte (R22, R236). -/
def Cpu.setStk (p : Cpu) (qq : Reg16Stk) (v : Word) : Cpu :=
  match qq with
  | .bc => { p with b := highByte v, c := lowByte v }
  | .de => { p with d := highByte v, e := lowByte v }
  | .hl => p.setHl v
  | .af => { p with a := highByte v, flags := Flags.ofByte (lowByte v) }

/-! ### The registers of a state -/

/-- A state with its registers replaced. -/
def State.withCpu (s : State) (p : Cpu) : State := { s with cpu := p }

/-- The state with `r <- v` for an 8-bit register. -/
def State.setReg8 (s : State) (r : Reg8) (v : Byte) : State := s.withCpu (s.cpu.set8 r v)

/-- The state with `A <- v`. -/
def State.setA (s : State) (v : Byte) : State := s.withCpu { s.cpu with a := v }

/-- The state with the four flags written. -/
def State.setFlags (s : State) (f : Flags) : State := s.withCpu { s.cpu with flags := f }

/-- The state with `HL <- v`. -/
def State.setHl (s : State) (v : Word) : State := s.withCpu (s.cpu.setHl v)

/-- The state with `SP <- v`. -/
def State.setSp (s : State) (v : Word) : State := s.withCpu { s.cpu with sp := v }

/-- The state with `PC <- v`. -/
def State.setPc (s : State) (v : Word) : State := s.withCpu { s.cpu with pc := v }

/-- The state with `IME <- v`. -/
def State.setIme (s : State) (v : Bool) : State := s.withCpu { s.cpu with ime := v }

/-- The state with `HALTED <- v`. -/
def State.setHalted (s : State) (v : Bool) : State := s.withCpu { s.cpu with halted := v }

/-- The model's mark of a `HALT` still to be run (log 7). -/
def State.setHaltAgain (s : State) (v : Bool) : State := { s with haltAgain := v }

end Sys2Proof.Machine
end

