-- ==== Sys2Proof/Machine/Flags.lean ====
section
/-!
DEFINITION. Every result and flag computation of the instruction set: 42_alu8.md R250 to R283, 43_alu16.md R291 and R294,
44_rotate_shift_bit.md R300 to R326. Operands are taken to numbers, the result is computed exactly and narrowed at the end.
-/

namespace Sys2Proof.Machine

/-! ### Two-operand operations on the accumulator -/

/-- `Add8(a, b, cin)` (R250). -/
def add8 (a b : Byte) (cin : Bool) : Byte × Flags :=
  let s := a.toNat + b.toNat + cin.toNat
  let res := BitVec.ofNat 8 s
  (res, { z := res == 0x00#8, n := false, h := decide (a.toNat % 16 + b.toNat % 16 + cin.toNat > 15), c := decide (s > 255) })

/-- `Sub8(a, b, cin)` (R250). -/
def sub8 (a b : Byte) (cin : Bool) : Byte × Flags :=
  let res := BitVec.ofInt 8 ((a.toNat : Int) - (b.toNat : Int) - (cin.toNat : Int))
  (res,
    { z := res == 0x00#8, n := true, h := decide (a.toNat % 16 < b.toNat % 16 + cin.toNat),
      c := decide (a.toNat < b.toNat + cin.toNat) })

/-- An operation on the accumulator: the old flags, `A` and the right operand give the new `A` and the new flags. -/
abbrev AluOp := Flags → Byte → Byte → Byte × Flags

/-- `ADD` (R251). -/
def aluAdd : AluOp := fun _ a b => add8 a b false

/-- `ADC` (R254): the old carry is the carry-in. -/
def aluAdc : AluOp := fun f a b => add8 a b f.c

/-- `SUB` (R257). -/
def aluSub : AluOp := fun _ a b => sub8 a b false

/-- `SBC` (R260): the old carry is the borrow-in. -/
def aluSbc : AluOp := fun f a b => sub8 a b f.c

/-- `AND` (R263). -/
def aluAnd : AluOp := fun _ a b => (a &&& b, { z := a &&& b == 0x00#8, n := false, h := true, c := false })

/-- `XOR` (R266). -/
def aluXor : AluOp := fun _ a b => (a ^^^ b, { z := a ^^^ b == 0x00#8, n := false, h := false, c := false })

/-- `OR` (R269). -/
def aluOr : AluOp := fun _ a b => (a ||| b, { z := a ||| b == 0x00#8, n := false, h := false, c := false })

/-- `CP` (R272): the flags of `SUB`, `A` unchanged. -/
def aluCp : AluOp := fun _ a b => (a, (sub8 a b false).2)

/-! ### Increment, decrement and the accumulator adjusts -/

/-- `INC` of a byte (R275): `fC` is not touched. -/
def inc8 (f : Flags) (v : Byte) : Byte × Flags :=
  (v + 1#8, { f with z := v + 1#8 == 0x00#8, n := false, h := v.extractLsb' 0 4 == 0xF#4 })

/-- `DEC` of a byte (R277): `fC` is not touched. -/
def dec8 (f : Flags) (v : Byte) : Byte × Flags :=
  (v - 1#8, { f with z := v - 1#8 == 0x00#8, n := true, h := v.extractLsb' 0 4 == 0x0#4 })

/-- The corrections of `DAA` on the mathematical integer `t` (R279), and the carry they leave. -/
def daaAdjust (a : Byte) (f : Flags) : Int × Bool :=
  if f.n = false then
    let t : Int := if a.toNat % 16 > 9 ∨ f.h = true then (a.toNat : Int) + 0x06 else (a.toNat : Int)
    if t > 0x9F ∨ f.c = true then (t + 0x60, true) else (t, f.c)
  else
    let t : Int := if f.h then (a.toNat : Int) - 0x06 else (a.toNat : Int)
    (if f.c then t - 0x60 else t, f.c)

/-- `DAA` (R279): `fN` kept, `fH` cleared, `fC` never cleared. -/
def daa8 (a : Byte) (f : Flags) : Byte × Flags :=
  let r := daaAdjust a f
  let res := BitVec.ofInt 8 r.1
  (res, { f with z := res == 0x00#8, h := false, c := r.2 })

/-- The flags of `CPL` (R280). -/
def cplFlags (f : Flags) : Flags := { f with n := true, h := true }

/-- The flags of `SCF` (R281). -/
def scfFlags (f : Flags) : Flags := { f with n := false, h := false, c := true }

/-- The flags of `CCF` (R282). -/
def ccfFlags (f : Flags) : Flags := { f with n := false, h := false, c := !f.c }

/-! ### 16-bit arithmetic -/

/-- `ADD HL,rr` (R291): carries out of bits 11 and 15, `fZ` unchanged. -/
def addHl16 (f : Flags) (a b : Word) : Word × Flags :=
  (a + b,
    { f with n := false, h := decide (a.toNat % 4096 + b.toNat % 4096 > 0x0FFF), c := decide (a.toNat + b.toNat > 0xFFFF) })

/-- `SP + e` and its flags (R294, R234): the flags come from the unsigned sum of `e` and the low byte of `SP`. -/
def spPlus (sp : Word) (e : Byte) : Word × Flags :=
  let lo := (lowByte sp).toNat
  (sp + sext16 e,
    { z := false, n := false, h := decide (lo % 16 + e.toNat % 16 > 0xF), c := decide (lo + e.toNat > 0xFF) })

/-! ### Rotates and shifts: the carry-in and the operand give the result and the bit shifted out (R300) -/

/-- A rotate or shift. -/
abbrev ShiftOp := Bool → Byte → Byte × Bool

/-- `Rlc(v)`. -/
def shiftRlc : ShiftOp := fun _ v => (v.extractLsb' 0 7 ++ v.extractLsb' 7 1, v.getLsbD 7)

/-- `Rrc(v)`. -/
def shiftRrc : ShiftOp := fun _ v => (v.extractLsb' 0 1 ++ v.extractLsb' 1 7, v.getLsbD 0)

/-- `Rl(v, cin)`. -/
def shiftRl : ShiftOp := fun cin v => (v.extractLsb' 0 7 ++ BitVec.ofBool cin, v.getLsbD 7)

/-- `Rr(v, cin)`. -/
def shiftRr : ShiftOp := fun cin v => (BitVec.ofBool cin ++ v.extractLsb' 1 7, v.getLsbD 0)

/-- `Sla(v)`. -/
def shiftSla : ShiftOp := fun _ v => (v.extractLsb' 0 7 ++ 0#1, v.getLsbD 7)

/-- `Sra(v)`. -/
def shiftSra : ShiftOp := fun _ v => (v.extractLsb' 7 1 ++ v.extractLsb' 1 7, v.getLsbD 0)

/-- `Srl(v)`. -/
def shiftSrl : ShiftOp := fun _ v => (0#1 ++ v.extractLsb' 1 7, v.getLsbD 0)

/-- `Swap(v)`: nothing is shifted out and the carry is 0. -/
def shiftSwap : ShiftOp := fun _ v => (v.extractLsb' 0 4 ++ v.extractLsb' 4 4, false)

/-- `ShiftFlags(res, c)` (R300). -/
def shiftFlags (res : Byte) (c : Bool) : Flags := { z := res == 0x00#8, n := false, h := false, c := c }

/-- The flags of the one-byte accumulator rotates (R301): `fZ = 0` whatever the result. -/
def accRotateFlags (c : Bool) : Flags := { z := false, n := false, h := false, c := c }

/-! ### Single bits -/

/-- The flags of `BIT` (R321): `fC` unchanged. -/
def bitFlags (f : Flags) (bn : Fin 8) (v : Byte) : Flags := { f with z := !v.getLsbD bn.val, n := false, h := true }

/-- `v & ~(1 << b)` (R323). -/
def resetBit (bn : Fin 8) (v : Byte) : Byte := v &&& ~~~(1#8 <<< bn.val)

/-- `v | (1 << b)` (R325). -/
def setBit (bn : Fin 8) (v : Byte) : Byte := v ||| (1#8 <<< bn.val)

end Sys2Proof.Machine
end

