-- ==== Sys2Proof/WellFormed.lean ====
section
/-!
DEFINITION. Well-formed instructions: the values of the operands that the encodings admit. Register, pair, condition and bit
number operands cannot be wrong (their types hold exactly the encodable values); the one operand with a check is the target of
`RST`, which is `8 * y` with `y` in 0..7 (45_control_flow.md R343).
-/

namespace Sys2Proof

/-- Whether an instruction is one the encodings of 30_encoding.md can express. -/
def Instr.WellFormed : Instr → Bool
  | .nop => true
  | .ldRrNn _ _ => true
  | .ldBcA => true
  | .ldDeA => true
  | .ldHliA => true
  | .ldHldA => true
  | .incRr _ => true
  | .decRr _ => true
  | .incR _ => true
  | .incHl => true
  | .decR _ => true
  | .decHl => true
  | .ldRN _ _ => true
  | .ldHlN _ => true
  | .rlca => true
  | .rrca => true
  | .rla => true
  | .rra => true
  | .daa => true
  | .cpl => true
  | .scf => true
  | .ccf => true
  | .ldNnSp _ => true
  | .stop => true
  | .jrE _ => true
  | .jrCcE _ _ => true
  | .addHlRr _ => true
  | .ldABc => true
  | .ldADe => true
  | .ldAHli => true
  | .ldAHld => true
  | .ldRR _ _ => true
  | .ldRHl _ => true
  | .ldHlR _ => true
  | .halt => true
  | .addAR _ => true
  | .addAHl => true
  | .adcAR _ => true
  | .adcAHl => true
  | .subR _ => true
  | .subHl => true
  | .sbcAR _ => true
  | .sbcAHl => true
  | .andR _ => true
  | .andHl => true
  | .xorR _ => true
  | .xorHl => true
  | .orR _ => true
  | .orHl => true
  | .cpR _ => true
  | .cpHl => true
  | .retCc _ => true
  | .ldhNA _ => true
  | .addSpE _ => true
  | .ldhAN _ => true
  | .ldHlSpE _ => true
  | .popQq _ => true
  | .ret => true
  | .reti => true
  | .jpHl => true
  | .ldSpHl => true
  | .jpCcNn _ _ => true
  | .ldhCA => true
  | .ldNnA _ => true
  | .ldhAC => true
  | .ldANn _ => true
  | .jpNn _ => true
  | .prefixCb _ => true
  | .di => true
  | .ei => true
  | .callCcNn _ _ => true
  | .pushQq _ => true
  | .callNn _ => true
  | .addAN _ => true
  | .adcAN _ => true
  | .subN _ => true
  | .sbcAN _ => true
  | .andN _ => true
  | .xorN _ => true
  | .orN _ => true
  | .cpN _ => true
  | .rstT t => t &&& 0xC7#8 == 0x00#8
  | .illegalD3 => true
  | .illegalDB => true
  | .illegalDD => true
  | .illegalE3 => true
  | .illegalE4 => true
  | .illegalEB => true
  | .illegalEC => true
  | .illegalED => true
  | .illegalF4 => true
  | .illegalFC => true
  | .illegalFD => true
  | .rlcR _ => true
  | .rlcHl => true
  | .rrcR _ => true
  | .rrcHl => true
  | .rlR _ => true
  | .rlHl => true
  | .rrR _ => true
  | .rrHl => true
  | .slaR _ => true
  | .slaHl => true
  | .sraR _ => true
  | .sraHl => true
  | .swapR _ => true
  | .swapHl => true
  | .srlR _ => true
  | .srlHl => true
  | .bitBR _ _ => true
  | .bitBHl _ => true
  | .resBR _ _ => true
  | .resBHl _ => true
  | .setBR _ _ => true
  | .setBHl _ => true

end Sys2Proof
end

