-- ==== Sys2Proof/Decode.lean ====
section
/-!
DEFINITION. Decoding and encoding (30_encoding.md). Decoding is total on any list of bytes: it gives an instruction and the
bytes after it, or refuses by name. Decoding never depends on state (R160).

The table has a row for the byte 0xCB itself (`PREFIX_CB`, R357) and a row for every prefixed instruction. `decodePrimary` is
the primary table (R169), in which 0xCB is `prefixCb`; `decodeInstr` goes on to the prefixed table (R170), as R408 and R357 say,
so a prefixed word decodes to the prefixed instruction and never to `prefixCb` (log 6).
-/

namespace Sys2Proof

/-! ### Fields and operand tables -/

/-- Field `x = op[7:6]` (R161). -/
def opX (op : Byte) : Nat := op.toNat / 64

/-- Field `y = op[5:3]` (R161). -/
def opY (op : Byte) : Nat := op.toNat / 8 % 8

/-- Field `z = op[2:0]` (R161). -/
def opZ (op : Byte) : Nat := op.toNat % 8

/-- The 3-bit operand index of R23; `none` is index 6, the byte at `HL`. -/
def reg8OfIndex : Nat → Option Reg8
  | 0 => some .b
  | 1 => some .c
  | 2 => some .d
  | 3 => some .e
  | 4 => some .h
  | 5 => some .l
  | 6 => none
  | _ => some .a

/-- The index of a register operand (R23). -/
def Reg8.index : Reg8 → Nat
  | .b => 0
  | .c => 1
  | .d => 2
  | .e => 3
  | .h => 4
  | .l => 5
  | .a => 7

/-- `r16[p]` (R24). -/
def reg16OfIndex : Nat → Reg16
  | 0 => .bc
  | 1 => .de
  | 2 => .hl
  | _ => .sp

/-- The index of an `r16` operand (R24). -/
def Reg16.index : Reg16 → Nat
  | .bc => 0
  | .de => 1
  | .hl => 2
  | .sp => 3

/-- `r16stk[p]` (R24). -/
def reg16StkOfIndex : Nat → Reg16Stk
  | 0 => .bc
  | 1 => .de
  | 2 => .hl
  | _ => .af

/-- The index of an `r16stk` operand (R24). -/
def Reg16Stk.index : Reg16Stk → Nat
  | .bc => 0
  | .de => 1
  | .hl => 2
  | .af => 3

/-- The condition field (R28). -/
def condOfIndex : Nat → Cond
  | 0 => .nz
  | 1 => .z
  | 2 => .nc
  | _ => .c

/-- The index of a condition (R28). -/
def Cond.index : Cond → Nat
  | .nz => 0
  | .z => 1
  | .nc => 2
  | .c => 3

/-! ### Lengths -/

/-- The length in bytes of the instruction that begins with the opcode byte `op` (R160, R162, R164 to R167): the opcode byte
alone fixes it, and 0xCB is followed by exactly one byte. -/
def opLength (op : Byte) : Nat :=
  match opX op, opZ op, opY op with
  | 0, 0, 0 => 1
  | 0, 0, 1 => 3
  | 0, 0, 2 => 1
  | 0, 0, _ => 2
  | 0, 1, y => if y % 2 = 0 then 3 else 1
  | 0, 6, _ => 2
  | 0, _, _ => 1
  | 3, 0, y => if y < 4 then 1 else 2
  | 3, 2, y => if y = 4 ∨ y = 6 then 1 else 3
  | 3, 3, 0 => 3
  | 3, 3, 1 => 2
  | 3, 4, y => if y < 4 then 3 else 1
  | 3, 5, 1 => 3
  | 3, 6, _ => 2
  | _, _, _ => 1

/-! ### The tables -/

/-- The prefixed table (R168, R170): the instruction that the byte after 0xCB selects. -/
def decodeCb (sub : Byte) : Instr :=
  let bn : Fin 8 := Fin.ofNat 8 (opY sub)
  match opX sub, opY sub, reg8OfIndex (opZ sub) with
  | 0, 0, some r => .rlcR r
  | 0, 0, none => .rlcHl
  | 0, 1, some r => .rrcR r
  | 0, 1, none => .rrcHl
  | 0, 2, some r => .rlR r
  | 0, 2, none => .rlHl
  | 0, 3, some r => .rrR r
  | 0, 3, none => .rrHl
  | 0, 4, some r => .slaR r
  | 0, 4, none => .slaHl
  | 0, 5, some r => .sraR r
  | 0, 5, none => .sraHl
  | 0, 6, some r => .swapR r
  | 0, 6, none => .swapHl
  | 0, _, some r => .srlR r
  | 0, _, none => .srlHl
  | 1, _, some r => .bitBR bn r
  | 1, _, none => .bitBHl bn
  | 2, _, some r => .resBR bn r
  | 2, _, none => .resBHl bn
  | _, _, some r => .setBR bn r
  | _, _, none => .setBHl bn

/-- Block 0, 0x00 to 0x3F (R164); `n` is the operand byte, `nn` the operand word. -/
def decodeBlock0 (y z : Nat) (n : Byte) (nn : Word) : Instr :=
  match z, y with
  | 0, 0 => .nop
  | 0, 1 => .ldNnSp nn
  | 0, 2 => .stop
  | 0, 3 => .jrE n
  | 0, y => .jrCcE (condOfIndex (y - 4)) n
  | 1, y => if y % 2 = 0 then .ldRrNn (reg16OfIndex (y / 2)) nn else .addHlRr (reg16OfIndex (y / 2))
  | 2, 0 => .ldBcA
  | 2, 1 => .ldABc
  | 2, 2 => .ldDeA
  | 2, 3 => .ldADe
  | 2, 4 => .ldHliA
  | 2, 5 => .ldAHli
  | 2, 6 => .ldHldA
  | 2, _ => .ldAHld
  | 3, y => if y % 2 = 0 then .incRr (reg16OfIndex (y / 2)) else .decRr (reg16OfIndex (y / 2))
  | 4, y =>
    match reg8OfIndex y with
    | some r => .incR r
    | none => .incHl
  | 5, y =>
    match reg8OfIndex y with
    | some r => .decR r
    | none => .decHl
  | 6, y =>
    match reg8OfIndex y with
    | some r => .ldRN r n
    | none => .ldHlN n
  | _, 0 => .rlca
  | _, 1 => .rrca
  | _, 2 => .rla
  | _, 3 => .rra
  | _, 4 => .daa
  | _, 5 => .cpl
  | _, 6 => .scf
  | _, _ => .ccf

/-- Block 1, 0x40 to 0x7F (R165). -/
def decodeBlock1 (y z : Nat) : Instr :=
  match reg8OfIndex y, reg8OfIndex z with
  | some r, some r' => .ldRR r r'
  | some r, none => .ldRHl r
  | none, some r' => .ldHlR r'
  | none, none => .halt

/-- Block 2, 0x80 to 0xBF (R166). -/
def decodeBlock2 (y z : Nat) : Instr :=
  match y, reg8OfIndex z with
  | 0, some r => .addAR r
  | 0, none => .addAHl
  | 1, some r => .adcAR r
  | 1, none => .adcAHl
  | 2, some r => .subR r
  | 2, none => .subHl
  | 3, some r => .sbcAR r
  | 3, none => .sbcAHl
  | 4, some r => .andR r
  | 4, none => .andHl
  | 5, some r => .xorR r
  | 5, none => .xorHl
  | 6, some r => .orR r
  | 6, none => .orHl
  | _, some r => .cpR r
  | _, none => .cpHl

/-- Block 3, 0xC0 to 0xFF (R167, with the eleven illegal opcodes of R171). -/
def decodeBlock3 (y z : Nat) (n : Byte) (nn : Word) : Instr :=
  match z, y with
  | 0, 4 => .ldhNA n
  | 0, 5 => .addSpE n
  | 0, 6 => .ldhAN n
  | 0, 7 => .ldHlSpE n
  | 0, y => .retCc (condOfIndex y)
  | 1, 1 => .ret
  | 1, 3 => .reti
  | 1, 5 => .jpHl
  | 1, 7 => .ldSpHl
  | 1, y => .popQq (reg16StkOfIndex (y / 2))
  | 2, 4 => .ldhCA
  | 2, 5 => .ldNnA nn
  | 2, 6 => .ldhAC
  | 2, 7 => .ldANn nn
  | 2, y => .jpCcNn (condOfIndex y) nn
  | 3, 0 => .jpNn nn
  | 3, 1 => .prefixCb n
  | 3, 2 => .illegalD3
  | 3, 3 => .illegalDB
  | 3, 4 => .illegalE3
  | 3, 5 => .illegalEB
  | 3, 6 => .di
  | 3, _ => .ei
  | 4, 4 => .illegalE4
  | 4, 5 => .illegalEC
  | 4, 6 => .illegalF4
  | 4, 7 => .illegalFC
  | 4, y => .callCcNn (condOfIndex y) nn
  | 5, 1 => .callNn nn
  | 5, 3 => .illegalDD
  | 5, 5 => .illegalED
  | 5, 7 => .illegalFD
  | 5, y => .pushQq (reg16StkOfIndex (y / 2))
  | 6, 0 => .addAN n
  | 6, 1 => .adcAN n
  | 6, 2 => .subN n
  | 6, 3 => .sbcAN n
  | 6, 4 => .andN n
  | 6, 5 => .xorN n
  | 6, 6 => .orN n
  | 6, _ => .cpN n
  | _, y => .rstT (BitVec.ofNat 8 (8 * y))

/-- The primary table (R169): the opcode byte `op` with the operand bytes `lo` and `hi` that follow it (those the length of
the instruction does not reach are not looked at). -/
def decodePrimary (op lo hi : Byte) : Instr :=
  match opX op with
  | 0 => decodeBlock0 (opY op) (opZ op) lo (hi ++ lo)
  | 1 => decodeBlock1 (opY op) (opZ op)
  | 2 => decodeBlock2 (opY op) (opZ op)
  | _ => decodeBlock3 (opY op) (opZ op) lo (hi ++ lo)

/-- The instruction of an opcode byte and its operand bytes: the primary table, and the prefixed one after 0xCB (R408, R357). -/
def decodeInstr (op lo hi : Byte) : Instr :=
  if op = 0xCB#8 then decodeCb lo else decodePrimary op lo hi

/-- Why a list of bytes does not begin with an instruction. -/
inductive DecodeError where
  /-- There is no byte. -/
  | noOpcode
  /-- The bytes end inside the instruction that begins with `op`. -/
  | operandMissing (op : Byte)
deriving DecidableEq, Repr

/-- What decoding a list of bytes gives. -/
inductive Decoded where
  /-- An instruction, and the bytes after it. -/
  | instr (i : Instr) (rest : List Byte)
  /-- No instruction, and why. -/
  | refused (e : DecodeError)
deriving DecidableEq, Repr

/-- Decoding of a list of bytes: the instruction and the bytes after it (R160). -/
def decode : List Byte → Decoded
  | [] => .refused .noOpcode
  | op :: rest =>
    match opLength op, rest with
    | 1, rest => .instr (decodeInstr op 0x00#8 0x00#8) rest
    | 2, lo :: rest => .instr (decodeInstr op lo 0x00#8) rest
    | 3, lo :: hi :: rest => .instr (decodeInstr op lo hi) rest
    | _, _ => .refused (.operandMissing op)

/-- The instruction the decoder reads from a word numbered as spec/opcode_table.json numbers it: byte `k` of the instruction
is bits `8k+7` to `8k`, and every bit from `nbits` up is 0. -/
def decodeTableWord (nbits w : Nat) : Option Instr :=
  let v := w % 2 ^ nbits
  match decode [BitVec.ofNat 8 v, BitVec.ofNat 8 (v / 256), BitVec.ofNat 8 (v / 65536)] with
  | .instr i _ => some i
  | .refused _ => none

/-! ### The encoder, written from the encodings of the instruction rules -/

/-- The opcode byte `{x, y, z}` (R161). -/
def octal (x y z : Nat) : Byte := BitVec.ofNat 8 (64 * x + 8 * y + z)

/-- The two operand bytes of `nn`, low byte first (R162, R163). -/
def wordBytes (nn : Word) : List Byte := [nn.extractLsb' 0 8, nn.extractLsb' 8 8]

/-- The bytes of an instruction. -/
def encode : Instr → List Byte
  | .nop => [0x00#8]
  | .ldRrNn rr nn => octal 0 (2 * rr.index) 1 :: wordBytes nn
  | .ldBcA => [0x02#8]
  | .ldDeA => [0x12#8]
  | .ldHliA => [0x22#8]
  | .ldHldA => [0x32#8]
  | .incRr rr => [octal 0 (2 * rr.index) 3]
  | .decRr rr => [octal 0 (2 * rr.index + 1) 3]
  | .incR r => [octal 0 r.index 4]
  | .incHl => [0x34#8]
  | .decR r => [octal 0 r.index 5]
  | .decHl => [0x35#8]
  | .ldRN r n => [octal 0 r.index 6, n]
  | .ldHlN n => [0x36#8, n]
  | .rlca => [0x07#8]
  | .rrca => [0x0F#8]
  | .rla => [0x17#8]
  | .rra => [0x1F#8]
  | .daa => [0x27#8]
  | .cpl => [0x2F#8]
  | .scf => [0x37#8]
  | .ccf => [0x3F#8]
  | .ldNnSp nn => 0x08#8 :: wordBytes nn
  | .stop => [0x10#8]
  | .jrE e => [0x18#8, e]
  | .jrCcE cc e => [octal 0 (4 + cc.index) 0, e]
  | .addHlRr rr => [octal 0 (2 * rr.index + 1) 1]
  | .ldABc => [0x0A#8]
  | .ldADe => [0x1A#8]
  | .ldAHli => [0x2A#8]
  | .ldAHld => [0x3A#8]
  | .ldRR r r' => [octal 1 r.index r'.index]
  | .ldRHl r => [octal 1 r.index 6]
  | .ldHlR r => [octal 1 6 r.index]
  | .halt => [0x76#8]
  | .addAR r => [octal 2 0 r.index]
  | .addAHl => [0x86#8]
  | .adcAR r => [octal 2 1 r.index]
  | .adcAHl => [0x8E#8]
  | .subR r => [octal 2 2 r.index]
  | .subHl => [0x96#8]
  | .sbcAR r => [octal 2 3 r.index]
  | .sbcAHl => [0x9E#8]
  | .andR r => [octal 2 4 r.index]
  | .andHl => [0xA6#8]
  | .xorR r => [octal 2 5 r.index]
  | .xorHl => [0xAE#8]
  | .orR r => [octal 2 6 r.index]
  | .orHl => [0xB6#8]
  | .cpR r => [octal 2 7 r.index]
  | .cpHl => [0xBE#8]
  | .retCc cc => [octal 3 cc.index 0]
  | .ldhNA n => [0xE0#8, n]
  | .addSpE e => [0xE8#8, e]
  | .ldhAN n => [0xF0#8, n]
  | .ldHlSpE e => [0xF8#8, e]
  | .popQq qq => [octal 3 (2 * qq.index) 1]
  | .ret => [0xC9#8]
  | .reti => [0xD9#8]
  | .jpHl => [0xE9#8]
  | .ldSpHl => [0xF9#8]
  | .jpCcNn cc nn => octal 3 cc.index 2 :: wordBytes nn
  | .ldhCA => [0xE2#8]
  | .ldNnA nn => 0xEA#8 :: wordBytes nn
  | .ldhAC => [0xF2#8]
  | .ldANn nn => 0xFA#8 :: wordBytes nn
  | .jpNn nn => 0xC3#8 :: wordBytes nn
  | .prefixCb sub => [0xCB#8, sub]
  | .di => [0xF3#8]
  | .ei => [0xFB#8]
  | .callCcNn cc nn => octal 3 cc.index 4 :: wordBytes nn
  | .pushQq qq => [octal 3 (2 * qq.index) 5]
  | .callNn nn => 0xCD#8 :: wordBytes nn
  | .addAN n => [0xC6#8, n]
  | .adcAN n => [0xCE#8, n]
  | .subN n => [0xD6#8, n]
  | .sbcAN n => [0xDE#8, n]
  | .andN n => [0xE6#8, n]
  | .xorN n => [0xEE#8, n]
  | .orN n => [0xF6#8, n]
  | .cpN n => [0xFE#8, n]
  | .rstT t => [0xC7#8 ||| t]
  | .illegalD3 => [0xD3#8]
  | .illegalDB => [0xDB#8]
  | .illegalDD => [0xDD#8]
  | .illegalE3 => [0xE3#8]
  | .illegalE4 => [0xE4#8]
  | .illegalEB => [0xEB#8]
  | .illegalEC => [0xEC#8]
  | .illegalED => [0xED#8]
  | .illegalF4 => [0xF4#8]
  | .illegalFC => [0xFC#8]
  | .illegalFD => [0xFD#8]
  | .rlcR r => [0xCB#8, octal 0 0 r.index]
  | .rlcHl => [0xCB#8, 0x06#8]
  | .rrcR r => [0xCB#8, octal 0 1 r.index]
  | .rrcHl => [0xCB#8, 0x0E#8]
  | .rlR r => [0xCB#8, octal 0 2 r.index]
  | .rlHl => [0xCB#8, 0x16#8]
  | .rrR r => [0xCB#8, octal 0 3 r.index]
  | .rrHl => [0xCB#8, 0x1E#8]
  | .slaR r => [0xCB#8, octal 0 4 r.index]
  | .slaHl => [0xCB#8, 0x26#8]
  | .sraR r => [0xCB#8, octal 0 5 r.index]
  | .sraHl => [0xCB#8, 0x2E#8]
  | .swapR r => [0xCB#8, octal 0 6 r.index]
  | .swapHl => [0xCB#8, 0x36#8]
  | .srlR r => [0xCB#8, octal 0 7 r.index]
  | .srlHl => [0xCB#8, 0x3E#8]
  | .bitBR bn r => [0xCB#8, octal 1 bn.val r.index]
  | .bitBHl bn => [0xCB#8, octal 1 bn.val 6]
  | .resBR bn r => [0xCB#8, octal 2 bn.val r.index]
  | .resBHl bn => [0xCB#8, octal 2 bn.val 6]
  | .setBR bn r => [0xCB#8, octal 3 bn.val r.index]
  | .setBHl bn => [0xCB#8, octal 3 bn.val 6]

end Sys2Proof
end

