-- ==== Sys2Proof/Machine/Devices.lean ====
section
/-!
DEFINITION. The small devices (61_timer_serial_joypad.md): interrupt requests, divider and timer, serial countdown, joypad.
-/

namespace Sys2Proof.Machine

/-! ### Interrupt requests and the pending test -/

/-- `RequestInterrupt(i)` (R18): `IF[i] <- 1` and nothing else. -/
def requestInterrupt (i : Fin 5) (s : State) : State :=
  { s with irq := { s.irq with iflag := s.irq.iflag ||| (1#5 <<< i.val) } }

/-- `IF[i] <- 0` (R405). -/
def clearInterrupt (i : Fin 5) (s : State) : State :=
  { s with irq := { s.irq with iflag := s.irq.iflag &&& ~~~(1#5 <<< i.val) } }

/-- `IE & IF & 0x1F` (R400). -/
def pendingInterrupts (s : State) : BitVec 5 := s.irq.ie.extractLsb' 0 5 &&& s.irq.iflag

/-- `LowestSetBit(pending)` (R407); `none` when nothing is pending. -/
def lowestSetBit (p : BitVec 5) : Option (Fin 5) :=
  if p.getLsbD 0 then some 0
  else if p.getLsbD 1 then some 1
  else if p.getLsbD 2 then some 2
  else if p.getLsbD 3 then some 3
  else if p.getLsbD 4 then some 4
  else none

/-- `Vector(i) = 0x0040 + 8 * i` (R406). -/
def interruptVector (i : Fin 5) : Word := BitVec.ofNat 16 (0x0040 + 8 * i.val)

/-! ### Divider and timer -/

/-- The divider half of `TimerTick()` (R443). -/
def dividerTick (s : State) : State :=
  let n := s.timer.divCnt + 1
  if n ≥ s.cfg.divPeriodTicks then { s with timer := { s.timer with divCnt := 0, div := s.timer.div + 1#8 } }
  else { s with timer := { s.timer with divCnt := n } }

/-- `TIMA_PERIOD[TAC[1:0]]` (R446). -/
def timaPeriod (cfg : Config) (select : BitVec 2) : Nat :=
  match select.toNat with
  | 0 => cfg.timaPeriod0
  | 1 => cfg.timaPeriod1
  | 2 => cfg.timaPeriod2
  | _ => cfg.timaPeriod3

/-- One increment of `TIMA`, with reload and request at overflow (R446). -/
def timaIncrement (s : State) : State :=
  if s.timer.tima = 0xFF#8 then requestInterrupt 2 { s with timer := { s.timer with tima := s.timer.tma } }
  else { s with timer := { s.timer with tima := s.timer.tima + 1#8 } }

/-- The counter half of `TimerTick()` (R446). DESIGN CHOICE (log 19): R33 keeps `TCNT` below 1024 and R9 sets no bound to `TIMA_PERIOD`; for a
period above 1024 the comparison of R446 is made as it stands, and `TCNT` passes 1023. -/
def counterTick (s : State) : State :=
  if s.timer.tac.getLsbD 2 then
    let n := s.timer.tCnt + 1
    if n ≥ timaPeriod s.cfg (s.timer.tac.extractLsb' 0 2) then timaIncrement { s with timer := { s.timer with tCnt := 0 } }
    else { s with timer := { s.timer with tCnt := n } }
  else s

/-- `TimerTick()` (R443, R446). -/
def timerTick (s : State) : State := counterTick (dividerTick s)

/-! ### Serial -/

/-- `SerialTick()` (R453). -/
def serialTick (s : State) : State :=
  match s.serial.cnt with
  | 0 => s
  | n + 1 =>
    let s' := { s with serial := { s.serial with cnt := n } }
    if n = 0 then requestInterrupt 3 s' else s'

/-- A write of `SC` (R452). -/
def writeSc (v : Byte) (s : State) : State :=
  { s with serial := { s.serial with sc := v, cnt := if v = 0x81#8 then s.cfg.serialDelayTicks else s.serial.cnt } }

/-! ### Joypad -/

/-- The low nibble of a read of 0xFF00 (R461): a pressed key of a selected group reads 0. -/
def joypadLow (j : Joypad) : BitVec 4 :=
  let dirs := j.sel.getLsbD 0 == false
  let btns := j.sel.getLsbD 1 == false
  BitVec.ofBool (!((dirs && j.buttons.down) || (btns && j.buttons.start))) ++
    BitVec.ofBool (!((dirs && j.buttons.up) || (btns && j.buttons.select))) ++
    BitVec.ofBool (!((dirs && j.buttons.left) || (btns && j.buttons.b))) ++
    BitVec.ofBool (!((dirs && j.buttons.right) || (btns && j.buttons.a)))

/-- `HostSetButtons(b)` (R462) with the interrupt that `JOYPAD_IRQ` says (R463). Under `draw` the request may or may not be made:
a free value decides it (log 9). -/
def hostSetButtons (b : Buttons) (s : State) : State :=
  let s' := { s with joypad := { s.joypad with buttons := b } }
  match s.cfg.joypadIrq with
  | .never => s'
  | .onPress => if joypadLow s.joypad &&& ~~~joypadLow s'.joypad = 0#4 then s' else requestInterrupt 4 s'
  | .draw =>
    let s'' := { s' with freeCount := s'.freeCount + 1 }
    if Config.freeBool s.freeCount then requestInterrupt 4 s'' else s''

/-- The host moves that stand before this step (R12, log 8): the first list of the queue, in order. -/
def hostMoves (s : State) : State :=
  match s.hostQueue with
  | [] => s
  | moves :: later => moves.foldl (fun t b => hostSetButtons b t) { s with hostQueue := later }

end Sys2Proof.Machine
end

