-- ==== Sys2Proof/Machine/Cells.lean ====
section
/-!
DEFINITION. Sparse arrays: a list of (index, value) pairs in one canonical form, read and written in one place. Every memory array
of `Memory` and the frame buffer is one.
-/

namespace Sys2Proof.Machine

/-- The value at index `k`; `d` is what an unlisted index reads as. -/
def cellsGet {α : Type} (d : α) : List (Nat × α) → Nat → α
  | [], _ => d
  | (i, w) :: rest, k => if k = i then w else cellsGet d rest k

/-- The array without an entry for index `k`. -/
def cellsErase {α : Type} : List (Nat × α) → Nat → List (Nat × α)
  | [], _ => []
  | (i, w) :: rest, k => if k = i then cellsErase rest k else (i, w) :: cellsErase rest k

/-- The array with the entry `(k, v)` in its place, for a value that is listed. -/
def cellsInsert {α : Type} : List (Nat × α) → Nat → α → List (Nat × α)
  | [], k, v => [(k, v)]
  | (i, w) :: rest, k, v =>
    if k < i then (k, v) :: (i, w) :: rest else if k = i then (k, v) :: rest else (i, w) :: cellsInsert rest k v

/-- The array with index `k` set to `v`. Setting the value an unlisted index reads as removes the entry. -/
def cellsSet {α : Type} [DecidableEq α] (d : α) (l : List (Nat × α)) (k : Nat) (v : α) : List (Nat × α) :=
  if v = d then cellsErase l k else cellsInsert l k v

/-- The canonical form from index `lo` up: strictly rising indexes, no entry equal to `d`. -/
def cellsWfFrom {α : Type} [DecidableEq α] (d : α) : Nat → List (Nat × α) → Bool
  | _, [] => true
  | lo, (i, w) :: rest => decide (lo ≤ i) && decide (w ≠ d) && cellsWfFrom d (i + 1) rest

/-- The canonical form of a sparse array. -/
def cellsWf {α : Type} [DecidableEq α] (d : α) (l : List (Nat × α)) : Bool := cellsWfFrom d 0 l

/-- What an unlisted memory byte reads as (log 1: DESIGN CHOICE, unsafe). -/
def unlistedByte : Byte := 0x00#8

/-- What an unlisted pixel of `FB` is (log 1: DESIGN CHOICE, unsafe). -/
def unlistedPixel : Pixel := .shade 0#2

/-- A byte of a memory array. -/
def byteAt (l : List Host.Cell) (k : Nat) : Byte := cellsGet unlistedByte l k

/-- A memory array with one byte written. -/
def setByte (l : List Host.Cell) (k : Nat) (v : Byte) : List Host.Cell := cellsSet unlistedByte l k v

/-- Every memory array is in canonical form. -/
def Memory.wf (m : Memory) : Bool :=
  cellsWf unlistedByte m.rom && cellsWf unlistedByte m.wram && cellsWf unlistedByte m.vram && cellsWf unlistedByte m.oam &&
    cellsWf unlistedByte m.hram && cellsWf unlistedByte m.cartRam && cellsWf unlistedByte m.bgCram &&
    cellsWf unlistedByte m.objCram && cellsWf unlistedByte m.audio

end Sys2Proof.Machine
end

