-- ==== Sys2Proof/Machine/Mapper.lean ====
section
/-!
DEFINITION. The cartridge mapper (21_cartridge_mapper.md): translation of the two windows, the RAM gate, and the mapper registers.
-/

namespace Sys2Proof.Machine

/-- `LowBank()` (R138, R141, R143): the ROM bank of the window 0x0000 to 0x3FFF. -/
def lowBank (c : Cart) : Nat :=
  match c.kind with
  | .none => 0
  | .typeA => (if c.bankMode then c.ramBankReg.toNat * 32 else 0) % c.romBanks
  | .typeB => 0

/-- `HighBank()` (R138, R141, R143): the ROM bank of the window 0x4000 to 0x7FFF. -/
def highBank (c : Cart) : Nat :=
  match c.kind with
  | .none => 1
  | .typeA => (c.ramBankReg.toNat * 32 ||| c.romBankReg.toNat) % c.romBanks
  | .typeB => c.romBankReg.toNat % c.romBanks

/-- The index into `ROM` of the byte that bus address `n`, below 0x8000, shows (R136). -/
def romIndex (c : Cart) (n : Nat) : Nat :=
  if n < 0x4000 then 16384 * lowBank c + n else 16384 * highBank c + (n - 0x4000)

/-- The RAM bank number of `RamOffset` (R138, R141, R143). -/
def ramBank (c : Cart) : Nat :=
  match c.kind with
  | .none => 0
  | .typeA => if c.bankMode then c.ramBankReg.toNat else 0
  | .typeB => c.ramBankReg.toNat

/-- What an access to the window 0xA000 to 0xBFFF reaches. -/
inductive RamAccess where
  /-- A byte of `CART_RAM`. -/
  | cell (k : Nat)
  /-- Nothing: no RAM, or the gate is closed (R139). -/
  | closed
  /-- A TypeB bank above 3, which faults (R143). -/
  | unmodelled
deriving DecidableEq, Repr

/-- The access to offset `off` of the window 0xA000 to 0xBFFF (R136, R137, R139, R143). -/
def ramAccess (c : Cart) (off : Nat) : RamAccess :=
  if c.ramSize = 0 then .closed
  else if c.kind ≠ .none ∧ c.ramEnable = false then .closed
  else if c.kind = .typeB ∧ c.ramBankReg.toNat > 3 then .unmodelled
  else .cell ((ramBank c * 8192 + off) % c.ramSize)

/-- The value the ROM-bank register takes: a written 0 is folded to 1 (R140, R142). -/
def foldBank (v : BitVec 7) : BitVec 7 := if v = 0#7 then 1#7 else v

/-- `RegisterWrite(a, v)` for bus address `n` below 0x8000 (R138, R140, R142). -/
def mapperRegisterWrite (c : Cart) (n : Nat) (v : Byte) : Cart :=
  match c.kind with
  | .none => c
  | .typeA =>
    if n < 0x2000 then { c with ramEnable := v.extractLsb' 0 4 == 0xA#4 }
    else if n < 0x4000 then { c with romBankReg := foldBank ((v.extractLsb' 0 5).setWidth 7) }
    else if n < 0x6000 then { c with ramBankReg := (v.extractLsb' 0 2).setWidth 4 }
    else { c with bankMode := v.getLsbD 0 }
  | .typeB =>
    if n < 0x2000 then { c with ramEnable := v.extractLsb' 0 4 == 0xA#4 }
    else if n < 0x4000 then { c with romBankReg := foldBank (v.extractLsb' 0 7) }
    else if n < 0x6000 then { c with ramBankReg := v.extractLsb' 0 4 }
    else c

/-- `get_current_bank(a)` (R145): a pure query for the host's tooling. DESIGN CHOICE (log 18): R145 takes the RAM bank from
`RamOffset(0xA000)`, which R143 gives a TypeB cartridge for a bank of at most 3 only, and which has no value without cartridge RAM;
there the query answers by the same formula. -/
def getCurrentBank (c : Cart) (a : Word) : Nat :=
  let n := a.toNat
  if n < 0x4000 then lowBank c
  else if n < 0x8000 then highBank c
  else if 0xA000 ≤ n ∧ n < 0xC000 then (ramBank c * 8192) % c.ramSize / 8192
  else 0

end Sys2Proof.Machine
end

