-- ==== Sys2Proof/Machine/BusRead.lean ====
section
/-!
DEFINITION. The bus dispatcher (20_memory.md R70, R71, R79) and `BusRead`. Reads change no state and spend no tick (R84).
-/

namespace Sys2Proof.Machine

/-! ### Who owns an address -/

/-- The registers of the I/O page (R79). -/
inductive IoReg where
  | joyp
  | sb
  | sc
  | div
  | tima
  | tma
  | tac
  | iflag
  | audio (i : Nat)
  | lcdc
  | stat
  | scy
  | scx
  | ly
  | lyc
  | dma
  | bgp
  | obp0
  | obp1
  | wy
  | wx
  | key1
  | vbk
  | hdma1
  | hdma2
  | hdma3
  | hdma4
  | hdma5
  | bcps
  | bcpd
  | ocps
  | ocpd
  | svbk
deriving DecidableEq, Repr

/-- The rows of R79 that exist in both modes, by low address byte; the audio block stands in `ioReg`. -/
def ioRows : List (Nat × IoReg) :=
  [(0x00, .joyp), (0x01, .sb), (0x02, .sc), (0x04, .div), (0x05, .tima), (0x06, .tma), (0x07, .tac), (0x0F, .iflag)] ++
    [(0x40, .lcdc), (0x41, .stat), (0x42, .scy), (0x43, .scx), (0x44, .ly), (0x45, .lyc), (0x46, .dma), (0x47, .bgp),
      (0x48, .obp0), (0x49, .obp1), (0x4A, .wy), (0x4B, .wx), (0x4D, .key1)]

/-- The rows of R79 that exist only in Colour mode. -/
def ioColourRows : List (Nat × IoReg) :=
  [(0x4F, .vbk), (0x51, .hdma1), (0x52, .hdma2), (0x53, .hdma3), (0x54, .hdma4), (0x55, .hdma5), (0x68, .bcps), (0x69, .bcpd),
    (0x6A, .ocps), (0x6B, .ocpd), (0x70, .svbk)]

/-- The register at 0xFF00 + `off`, `off` below 0x80 (R79); `none` where the table has no register. -/
def ioReg (colour : Bool) (off : Nat) : Option IoReg :=
  if 0x10 ≤ off ∧ off ≤ 0x3F then some (.audio (off - 0x10))
  else
    match ioRows.lookup off with
    | some r => some r
    | none => if colour then ioColourRows.lookup off else none

/-- The owner of a bus address (R71), with the offset inside the owner's window. -/
inductive Owner where
  | rom (n : Nat)
  | vram (off : Nat)
  | cartRam (off : Nat)
  | wramFixed (off : Nat)
  | wramBanked (off : Nat)
  | oam (off : Nat)
  | io (r : IoReg)
  | hram (off : Nat)
  | ie
  | nobody
deriving DecidableEq, Repr

/-- The dispatcher (R71): the owner of address `a`. -/
def busOwner (colour : Bool) (a : Word) : Owner :=
  let n := a.toNat
  if n < 0x8000 then .rom n
  else if n < 0xA000 then .vram (n - 0x8000)
  else if n < 0xC000 then .cartRam (n - 0xA000)
  else if n < 0xD000 then .wramFixed (n - 0xC000)
  else if n < 0xE000 then .wramBanked (n - 0xD000)
  else if n < 0xFE00 then .nobody
  else if n < 0xFEA0 then .oam (n - 0xFE00)
  else if n < 0xFF00 then .nobody
  else if n < 0xFF80 then
    match ioReg colour (n - 0xFF00) with
    | some r => .io r
    | none => .nobody
  else if n < 0xFFFF then .hram (n - 0xFF80)
  else .ie

/-! ### Banks -/

/-- The VRAM bank of the CPU's window and of the VRAM DMA (R72, R530). -/
def vramBank (s : State) : Nat := if s.colorMode then s.colour.vbk.toNat else 0

/-- The WRAM bank of 0xD000 to 0xDFFF (R73, R531): 1 in DMG mode, `max(SVBK, 1)` in Colour mode. -/
def wramBank (s : State) : Nat := if s.colorMode then max s.colour.svbk.toNat 1 else 1

/-! ### Reading the registers of the I/O page -/

/-- `MODE` as `STAT[1:0]` (R39). -/
def PpuMode.code : PpuMode → BitVec 2
  | .hBlank => 0#2
  | .vBlank => 1#2
  | .oamScan => 2#2
  | .draw => 3#2

/-- A read of `STAT` (R37): bit 7 reads 1, bits 6 to 3 as stored, bit 2 is `LY = LYC` now, bits 1 to 0 `MODE`. -/
def readStat (p : Ppu) : Byte := 1#1 ++ p.stat ++ BitVec.ofBool (p.ly == p.lyc) ++ p.mode.code

/-- A read of `HDMA5` (R544). -/
def readHdma5 (c : Colour) : Byte :=
  if c.hdmaActive then 0#1 ++ BitVec.ofNat 7 (c.hdmaLeft - 1)
  else if c.hdmaLeft = 0 then 0xFF#8
  else 1#1 ++ BitVec.ofNat 7 (c.hdmaLeft - 1)

/-- A read of a register of the I/O page (R79). -/
def ioRead (s : State) : IoReg → Byte
  | .joyp => 0b11#2 ++ s.joypad.sel ++ joypadLow s.joypad
  | .sb => s.serial.sb
  | .sc => s.serial.sc
  | .div => s.timer.div
  | .tima => s.timer.tima
  | .tma => s.timer.tma
  | .tac => 0b11111#5 ++ s.timer.tac
  | .iflag => 0b111#3 ++ s.irq.iflag
  | .audio _ => s.cfg.audioReadSentinel
  | .lcdc => s.ppu.lcdc
  | .stat => readStat s.ppu
  | .scy => s.ppu.scy
  | .scx => s.ppu.scx
  | .ly => s.ppu.ly
  | .lyc => s.ppu.lyc
  | .dma => s.ppu.dma
  | .bgp => s.ppu.bgp
  | .obp0 => s.ppu.obp0
  | .obp1 => s.ppu.obp1
  | .wy => s.ppu.wy
  | .wx => s.ppu.wx
  | .key1 => s.cfg.key1ReadSentinel
  | .vbk => 0b1111111#7 ++ s.colour.vbk
  | .hdma1 => 0xFF#8
  | .hdma2 => 0xFF#8
  | .hdma3 => 0xFF#8
  | .hdma4 => 0xFF#8
  | .hdma5 => readHdma5 s.colour
  | .bcps => BitVec.ofBool s.colour.bcpsAuto ++ 1#1 ++ s.colour.bcpsIndex
  | .bcpd => byteAt s.mem.bgCram s.colour.bcpsIndex.toNat
  | .ocps => BitVec.ofBool s.colour.ocpsAuto ++ 1#1 ++ s.colour.ocpsIndex
  | .ocpd => byteAt s.mem.objCram s.colour.ocpsIndex.toNat
  | .svbk => 0b11111#5 ++ s.colour.svbk

/-! ### `BusRead` -/

/-- What a bus read gives: a byte, or the fault it raises. -/
inductive ReadResult where
  | byte (v : Byte)
  | fault (f : Fault)
deriving DecidableEq, Repr

/-- `BusRead(a)` (R71, with R72 to R75, R79, R80 and `MapperRead` of R136). -/
def busRead (s : State) (a : Word) : ReadResult :=
  match busOwner s.colorMode a with
  | .rom n => .byte (byteAt s.mem.rom (romIndex s.cart n))
  | .vram off => .byte (byteAt s.mem.vram (8192 * vramBank s + off))
  | .cartRam off =>
    match ramAccess s.cart off with
    | .cell k => .byte (byteAt s.mem.cartRam k)
    | .closed => .byte s.cfg.ramDisabledSentinel
    | .unmodelled => .fault (.unmodelledMapperFeature a s.cart.ramBankReg)
  | .wramFixed off => .byte (byteAt s.mem.wram off)
  | .wramBanked off => .byte (byteAt s.mem.wram (4096 * wramBank s + off))
  | .oam off => .byte (byteAt s.mem.oam off)
  | .io r => .byte (ioRead s r)
  | .hram off => .byte (byteAt s.mem.hram off)
  | .ie => .byte s.irq.ie
  | .nobody => .fault (.unmappedAccess a .read)

end Sys2Proof.Machine
end

