-- ==== Sys2Proof/Machine/Ppu.lean ====
section
/-!
DEFINITION. The PPU (62_ppu.md): palettes, mode entry, line compare, switching off and on, and the pixel pipeline. The dot machine
itself (R490) is in Tick.lean, since its h-blank hook reads the bus.
-/

namespace Sys2Proof.Machine

/-! ### LCDC and STAT fields (R38, R39) -/

/-- A bit of `LCDC`. -/
def lcdcBit (s : State) (i : Nat) : Bool := s.ppu.lcdc.getLsbD i

/-- Bit `i` of `STAT`, for the stored bits 6 to 3. -/
def statBit (s : State) (i : Nat) : Bool := s.ppu.stat.getLsbD (i - 3)

/-! ### Modes and lines -/

/-- `EnterMode(m)` (R493). -/
def enterMode (m : PpuMode) (s : State) : State :=
  let s' := { s with ppu := { s.ppu with mode := m } }
  let enabled :=
    match m with
    | .hBlank => statBit s 3
    | .vBlank => statBit s 4
    | .oamScan => statBit s 5
    | .draw => false
  if enabled then requestInterrupt 1 s' else s'

/-- `LineCompare()` (R494). -/
def lineCompare (s : State) : State :=
  if s.ppu.ly = s.ppu.lyc ∧ statBit s 6 = true then requestInterrupt 1 s else s

/-- `StartDraw()` (R497). -/
def startDraw (s : State) : State :=
  { s with
    ppu := {
      s.ppu with
      lx := 0, winActive := false, bgValid := false, bgStep := s.ppu.scx.extractLsb' 0 3, drawWait := s.cfg.drawPenaltyDots } }

/-- Switching the PPU off (R486). -/
def ppuOff (s : State) : State :=
  { s with
    ppu := { s.ppu with ly := 0x00#8, dot := 0, mode := .hBlank, lx := 0, drawWait := 0, winActive := false, bgValid := false } }

/-- A write of `LCDC` (R481) with what the edges of bit 7 run (R486, R487). -/
def writeLcdc (v : Byte) (s : State) : State :=
  let old := lcdcBit s 7
  let s' := { s with ppu := { s.ppu with lcdc := v } }
  if old = true ∧ v.getLsbD 7 = false then ppuOff s'
  else if old = false ∧ v.getLsbD 7 = true then enterMode .oamScan s'
  else s'

/-! ### Video memory -/

/-- `VRAM[bank][off]`, read by the PPU directly (R480). -/
def vramAt (s : State) (bank off : Nat) : Byte := byteAt s.mem.vram (8192 * bank + off)

/-- `VRAM[bank][off] <- v`. -/
def setVram (bank off : Nat) (v : Byte) (s : State) : State :=
  { s with mem := { s.mem with vram := setByte s.mem.vram (8192 * bank + off) v } }

/-! ### The background and window lane -/

/-- The window region test of `BgLane` (R501). -/
def windowReached (s : State) (x y : Nat) : Bool :=
  lcdcBit s 5 && decide (s.ppu.wy.toNat ≤ y) && decide (s.ppu.wx.toNat ≤ x + 7)

/-- The tile-data offset of tile number `tile` (R502): unsigned from 0x0000, or signed from 0x1000. -/
def tileBase (s : State) (tile : Byte) : Nat :=
  if lcdcBit s 4 then 16 * tile.toNat else (0x1000 + 16 * tile.toInt).toNat

/-- The tile row at map `map`, background column `px` and row `py` (R502). -/
def fetchRowAt (map px py : Nat) (s : State) : State :=
  let cell := map + 32 * (py / 8) + px / 8
  let tile := vramAt s 0 cell
  let attr := if s.colorMode then vramAt s 1 cell else 0x00#8
  let row := if attr.getLsbD 6 then 7 - py % 8 else py % 8
  let base := tileBase s tile
  let bank := (attr.extractLsb' 3 1).toNat
  { s with ppu := { s.ppu with bgLo := vramAt s bank (base + 2 * row), bgHi := vramAt s bank (base + 2 * row + 1), bgAttr := attr } }

/-- A row for which R502 states no value: the window is active and the CPU has since moved `WY` or `WX` past this pixel, so
`y - WY` or `x + 7 - WX` is negative. The three bytes are free values (log 10); the attribute is 0 in DMG mode all the same (R41). -/
def fetchFreeRow (s : State) : State :=
  { s with
    ppu := {
      s.ppu with
      bgLo := Config.freeByte s.freeCount,
      bgHi := Config.freeByte (s.freeCount + 1),
      bgAttr := if s.colorMode then Config.freeByte (s.freeCount + 2) else 0x00#8 },
    freeCount := s.freeCount + 3 }

/-- `FetchRow(x, y)` (R502). -/
def fetchRow (x y : Nat) (s : State) : State :=
  if s.ppu.winActive then
    if s.ppu.wx.toNat ≤ x + 7 ∧ s.ppu.wy.toNat ≤ y then
      fetchRowAt (if lcdcBit s 6 then 0x1C00 else 0x1800) (x + 7 - s.ppu.wx.toNat) (y - s.ppu.wy.toNat) s
    else fetchFreeRow s
  else
    fetchRowAt (if lcdcBit s 3 then 0x1C00 else 0x1800) ((x + s.ppu.scx.toNat) % 256) ((y + s.ppu.scy.toNat) % 256) s

/-- The switch to the window (R501), the first statement of `BgLane`. -/
def windowSwitch (x y : Nat) (s : State) : State :=
  if s.ppu.winActive = false ∧ windowReached s x y = true then
    { s with
      ppu := { s.ppu with winActive := true, bgStep := BitVec.ofNat 3 (x + 7 - s.ppu.wx.toNat), bgValid := false } }
  else s

/-- The refetch (R501), the second statement of `BgLane`. -/
def refetchRow (x y : Nat) (s : State) : State :=
  if s.ppu.bgValid = false ∨ s.ppu.bgStep = 0#3 then
    let t := fetchRow x y s
    { t with ppu := { t.ppu with bgValid := true } }
  else s

/-- The colour index that the lane's shift position selects (R501, R504). -/
def laneIndex (s : State) : BitVec 2 :=
  let k := if s.colorMode && s.ppu.bgAttr.getLsbD 5 then s.ppu.bgStep.toNat else 7 - s.ppu.bgStep.toNat
  if s.colorMode = false ∧ lcdcBit s 0 = false then 0#2
  else BitVec.ofBool (s.ppu.bgHi.getLsbD k) ++ BitVec.ofBool (s.ppu.bgLo.getLsbD k)

/-- The state of the lane after `BgLane(x, y)`, but for the step counter's advance (R501). -/
def laneFetch (x y : Nat) (s : State) : State := refetchRow x y (windowSwitch x y s)

/-! ### The sprite lane -/

/-- What OAM entry `n` shows at pixel `(x, y)` (R510): its colour index and attribute byte, if it covers the pixel with a
non-zero index. -/
def spritePixel (s : State) (x y n : Nat) : Option (BitVec 2 × Byte) :=
  let yy := (byteAt s.mem.oam (4 * n)).toNat
  let xx := (byteAt s.mem.oam (4 * n + 1)).toNat
  let tile := byteAt s.mem.oam (4 * n + 2)
  let attr := byteAt s.mem.oam (4 * n + 3)
  let h := if lcdcBit s 2 then 16 else 8
  if xx ≤ x + 8 ∧ x + 8 - xx ≤ 7 ∧ yy ≤ y + 16 ∧ y + 16 - yy < h then
    let col := if attr.getLsbD 5 then 7 - (x + 8 - xx) else x + 8 - xx
    let row := if attr.getLsbD 6 then h - 1 - (y + 16 - yy) else y + 16 - yy
    let t := if h = 16 then tile &&& 0xFE#8 else tile
    let off := 16 * t.toNat + 2 * row
    let bank := if s.colorMode then (attr.extractLsb' 3 1).toNat else 0
    let idx := BitVec.ofBool ((vramAt s bank (off + 1)).getLsbD (7 - col)) ++ BitVec.ofBool ((vramAt s bank off).getLsbD (7 - col))
    if idx = 0#2 then none else some (idx, attr)
  else none

/-- `SpriteLane(x, y)` (R510): the first OAM entry whose colour index there is not zero. -/
def spriteLane (s : State) (x y : Nat) : Option (BitVec 2 × Byte) :=
  if lcdcBit s 1 then (List.range 40).findSome? (spritePixel s x y) else none

/-! ### Mixing and palettes -/

/-- Which lane a pixel comes from, with its colour index and attribute byte (R515). -/
inductive PixelSource where
  | bg (k : BitVec 2) (attr : Byte)
  | obj (k : BitVec 2) (attr : Byte)
deriving DecidableEq, Repr

/-- `Mix` (R515). -/
def mixLanes (s : State) (bgIdx : BitVec 2) (bgAttr : Byte) (sp : Option (BitVec 2 × Byte)) : PixelSource :=
  match sp with
  | none => .bg bgIdx bgAttr
  | some (spIdx, spAttr) =>
    if s.colorMode = true ∧ lcdcBit s 0 = false then .obj spIdx spAttr
    else if (spAttr.getLsbD 7 = true ∨ bgAttr.getLsbD 7 = true) ∧ bgIdx ≠ 0#2 then .bg bgIdx bgAttr
    else .obj spIdx spAttr

/-- A DMG palette register maps index `k` to `P[2k+1 : 2k]` (R482). -/
def paletteShade (p : Byte) (k : BitVec 2) : BitVec 2 := p.extractLsb' (2 * k.toNat) 2

/-- Colour `k` of palette `p` of a colour RAM (R43, R520): bits 14 to 0 of the little-endian pair. -/
def paletteColour (cram : List Host.Cell) (p : BitVec 3) (k : BitVec 2) : BitVec 15 :=
  let at0 := 8 * p.toNat + 2 * k.toNat
  (byteAt cram (at0 + 1) ++ byteAt cram at0).extractLsb' 0 15

/-- `Resolve` (R520). -/
def resolvePixel (s : State) : PixelSource → Pixel
  | .bg k attr =>
    if s.colorMode then .rgb (paletteColour s.mem.bgCram (attr.extractLsb' 0 3) k)
    else if lcdcBit s 0 then .shade (paletteShade s.ppu.bgp k)
    else .shade 0#2
  | .obj k attr =>
    if s.colorMode then .rgb (paletteColour s.mem.objCram (attr.extractLsb' 0 3) k)
    else .shade (paletteShade (if attr.getLsbD 4 then s.ppu.obp1 else s.ppu.obp0) k)

/-- The 32-bit cell of a pixel at the presentation boundary (R9, R520): the host's conversion (log 11). -/
def presentPixel : Pixel → BitVec 32
  | .shade k => Config.shade32 k
  | .rgb k => Config.rgb555To32 k

/-- The 32-bit cell at column `x` of row `y` of a frame handed to the host (R12, R525). -/
def presentCell (frame : List (Nat × Pixel)) (x y : Nat) : BitVec 32 :=
  presentPixel (cellsGet unlistedPixel frame (160 * y + x))

/-- `EmitPixel()` (R500). -/
def emitPixel (s : State) : State :=
  let x := s.ppu.lx
  let y := s.ppu.ly.toNat
  let t := laneFetch x y s
  let px := resolvePixel t (mixLanes t (laneIndex t) t.ppu.bgAttr (spriteLane t x y))
  { t with
    fb := cellsSet unlistedPixel t.fb (160 * y + x) px,
    ppu := { t.ppu with bgStep := t.ppu.bgStep + 1#3, lx := x + 1 } }

/-! ### One dot, but for the h-blank hook -/

/-- Part (a) of `PpuDot()` (R490): the work of the current dot. -/
def dotWork (s : State) : State :=
  if s.ppu.mode = .draw then
    if s.ppu.lx < 160 then emitPixel s else { s with ppu := { s.ppu with drawWait := s.ppu.drawWait - 1 } }
  else s

/-- `emit FrameReady(FB)` (R525, log 11). -/
def frameReady (s : State) : State := { s with frameCount := s.frameCount + 1, lastFrame := some s.fb }

/-- The end of a line (R490): `LY` moves on, a frame is handed over at the wrap, and the line compare is made. -/
def endLine (s : State) : State :=
  if s.ppu.ly = 153#8 then lineCompare (frameReady { s with ppu := { s.ppu with dot := 0, ly := 0x00#8 } })
  else lineCompare { s with ppu := { s.ppu with dot := 0, ly := s.ppu.ly + 1#8 } }

/-- Part (b) of `PpuDot()` (R490). -/
def dotAdvance (s : State) : State :=
  if s.ppu.dot + 1 = 456 then endLine s else { s with ppu := { s.ppu with dot := s.ppu.dot + 1 } }

/-- The mode change due at a position, part (c) of `PpuDot()` (R490); `none` where no mode is entered. -/
def modeDue (s : State) : Option PpuMode :=
  if s.ppu.ly.toNat < 144 then
    if s.ppu.dot = 0 then some .oamScan
    else if s.ppu.dot = 80 then some .draw
    else if s.ppu.mode = .draw ∧ s.ppu.lx = 160 ∧ s.ppu.drawWait = 0 then some .hBlank
    else none
  else if s.ppu.ly = 144#8 ∧ s.ppu.dot = 0 then some .vBlank
  else none

end Sys2Proof.Machine
end

