-- ==== Sys2Proof/Machine/Result.lean ====
section
/-!
DEFINITION. The result of an operation that may raise a fault, and how a meaning ends.
-/

namespace Sys2Proof.Machine

/-- An operation ends with a value and a state, or has raised a fault: the state then has its `FAULT` set and keeps everything
written before that point (R17, R401). -/
inductive Res (α : Type) where
  | ok (a : α) (s : State)
  | raised (s : State)
deriving DecidableEq, Repr

/-- The next operation runs only if none has raised. -/
def Res.andThen {α β : Type} (r : Res α) (f : α → State → Res β) : Res β :=
  match r with
  | .ok a s => f a s
  | .raised s => .raised s

/-- `raise Fault(reason, info)` (R17): the sticky record is set and the step ends. -/
def raiseFault {α : Type} (f : Fault) (s : State) : Res α := .raised { s with fault := some f }

/-- The end of a step: the state reached, whether or not a fault was raised on the way (R401, log 4). -/
def finish (r : Res Unit) : Host.Outcome State Fault Refusal :=
  match r with
  | .ok _ s => .next s
  | .raised s => .next s

/-- `repeat n times`, ending at the first fault. -/
def repeatRes (f : State → Res Unit) : Nat → State → Res Unit
  | 0, s => .ok () s
  | n + 1, s => (f s).andThen fun _ t => repeatRes f n t

end Sys2Proof.Machine
end

