-- ==== Sys2Proof/Machine/Tick.lean ====
section
/-!
DEFINITION. The shared clock: the VRAM DMA's block copy (R542), the h-blank hook (R543), `PpuDot()` (R490) and `Tick()` (R440).
-/

namespace Sys2Proof.Machine

/-! ### The VRAM DMA's block -/

/-- Bytes `i` to `i + k - 1` of a block (R542): each is read through the bus and written to VRAM directly. -/
def copyBytes : Nat → Nat → State → Res Unit
  | 0, _, s => .ok () s
  | k + 1, i, s =>
    match busRead s (s.colour.hdmaSrc + BitVec.ofNat 16 i) with
    | .byte b => copyBytes k (i + 1) (setVram s.colour.vbk.toNat ((s.colour.hdmaDst.toNat + i) % 8192) b s)
    | .fault f => raiseFault f s

/-- The addresses and the count after a block (R542). -/
def blockDone (s : State) : State :=
  { s with
    colour := {
      s.colour with
      hdmaSrc := s.colour.hdmaSrc + 16#16,
      hdmaDst := BitVec.ofNat 16 ((s.colour.hdmaDst.toNat + 16) % 8192),
      hdmaLeft := s.colour.hdmaLeft - 1 } }

/-- `CopyBlock()` (R542). -/
def copyBlock (s : State) : Res Unit := (copyBytes 16 0 s).andThen fun _ t => .ok () (blockDone t)

/-- `HDMA_ACTIVE <- 0`. -/
def hdmaStop (s : State) : State := { s with colour := { s.colour with hdmaActive := false } }

/-- `HBlankDma()` (R543). -/
def hBlankDma (s : State) : Res Unit :=
  if s.colorMode = true ∧ s.colour.hdmaActive = true then
    (copyBlock s).andThen fun _ t => .ok () (if t.colour.hdmaLeft = 0 then hdmaStop t else t)
  else .ok () s

/-! ### The dot machine and the tick -/

/-- Part (c) of `PpuDot()` (R490, R492, R497, R543). -/
def dotModes (s : State) : Res Unit :=
  match modeDue s with
  | none => .ok () s
  | some .oamScan => .ok () (enterMode .oamScan s)
  | some .draw => .ok () (enterMode .draw (startDraw s))
  | some .hBlank => hBlankDma (enterMode .hBlank s)
  | some .vBlank => .ok () (requestInterrupt 0 (enterMode .vBlank s))

/-- `PpuDot()` (R490): nothing at all while the PPU is off (R487). -/
def ppuDot (s : State) : Res Unit :=
  if lcdcBit s 7 then dotModes (dotAdvance (dotWork s)) else .ok () s

/-- `Tick()` (R440): the PPU's dots, then the timer, then the serial countdown. -/
def tick (s : State) : Res Unit :=
  (repeatRes ppuDot s.cfg.dotsPerTick s).andThen fun _ t => .ok () (serialTick (timerTick t))

/-- `n` ticks. -/
def ticks (n : Nat) (s : State) : Res Unit := repeatRes tick n s

end Sys2Proof.Machine
end

