-- ==== Sys2Proof/Machine/BusWrite.lean ====
section
/-!
DEFINITION. `BusWrite` (20_memory.md R71, R79, R84): stores, mapper register writes, the writes of the I/O page, the OAM DMA (R110)
and the start of a VRAM DMA (R541).
-/

namespace Sys2Proof.Machine

/-! ### Stores -/

/-- `WRAM` byte `k` (bank times 4096 plus offset) written. -/
def setWram (k : Nat) (v : Byte) (s : State) : State := { s with mem := { s.mem with wram := setByte s.mem.wram k v } }

/-- `OAM[k] <- v`. -/
def setOam (k : Nat) (v : Byte) (s : State) : State := { s with mem := { s.mem with oam := setByte s.mem.oam k v } }

/-- `HRAM[k] <- v`. -/
def setHram (k : Nat) (v : Byte) (s : State) : State := { s with mem := { s.mem with hram := setByte s.mem.hram k v } }

/-- `CART_RAM[k] <- v`. -/
def setCartRam (k : Nat) (v : Byte) (s : State) : State :=
  { s with mem := { s.mem with cartRam := setByte s.mem.cartRam k v } }

/-! ### The DMA engines -/

/-- Bytes `i` to `i + k - 1` of the OAM DMA from page `base` (R110). -/
def oamDmaBytes (base : Word) : Nat → Nat → State → Res Unit
  | 0, _, s => .ok () s
  | k + 1, i, s =>
    (ticks s.cfg.oamDmaTicksPerByte s).andThen fun _ t =>
      match busRead t (base + BitVec.ofNat 16 i) with
      | .byte b => oamDmaBytes base k (i + 1) (setOam i b t)
      | .fault f => raiseFault f t

/-- A write of `DMA` (R110): the whole copy runs inside the write. -/
def writeDma (v : Byte) (s : State) : Res Unit :=
  oamDmaBytes (joinBytes v 0x00#8) 160 0 { s with ppu := { s.ppu with dma := v } }

/-- The start of a transfer (R541): the running addresses and the block count. -/
def hdmaLoad (v : Byte) (s : State) : State :=
  { s with
    colour := {
      s.colour with
      hdmaSrc := joinBytes s.colour.hdma1 s.colour.hdma2 &&& 0xFFF0#16,
      hdmaDst := joinBytes s.colour.hdma3 s.colour.hdma4 &&& 0x1FF0#16,
      hdmaLeft := (v.extractLsb' 0 7).toNat + 1 } }

/-- A write of `HDMA5` (R541): abort, bulk transfer, or the start of a paced one. -/
def writeHdma5 (v : Byte) (s : State) : Res Unit :=
  if s.colour.hdmaActive = true ∧ v.getLsbD 7 = false then .ok () (hdmaStop s)
  else
    let t := hdmaLoad v s
    if v.getLsbD 7 then .ok () { t with colour := { t.colour with hdmaActive := true } }
    else (repeatRes copyBlock t.colour.hdmaLeft t).andThen fun _ u => .ok () (hdmaStop u)

/-! ### The registers of the I/O page -/

/-- A write of `BCPD` (R533). -/
def writeBcpd (v : Byte) (s : State) : State :=
  { s with
    mem := { s.mem with bgCram := setByte s.mem.bgCram s.colour.bcpsIndex.toNat v },
    colour := { s.colour with bcpsIndex := if s.colour.bcpsAuto then s.colour.bcpsIndex + 1#6 else s.colour.bcpsIndex } }

/-- A write of `OCPD` (R533). -/
def writeOcpd (v : Byte) (s : State) : State :=
  { s with
    mem := { s.mem with objCram := setByte s.mem.objCram s.colour.ocpsIndex.toNat v },
    colour := { s.colour with ocpsIndex := if s.colour.ocpsAuto then s.colour.ocpsIndex + 1#6 else s.colour.ocpsIndex } }

/-- A write of a register of the I/O page (R79, R481, R444, R447, R451, R452, R460, R470, R530 to R533, R540, R541). -/
def ioWrite (r : IoReg) (v : Byte) (s : State) : Res Unit :=
  match r with
  | .joyp => .ok () { s with joypad := { s.joypad with sel := v.extractLsb' 4 2 } }
  | .sb => .ok () { s with serial := { s.serial with sb := v } }
  | .sc => .ok () (writeSc v s)
  | .div => .ok () { s with timer := { s.timer with div := 0x00#8, divCnt := 0 } }
  | .tima => .ok () { s with timer := { s.timer with tima := v } }
  | .tma => .ok () { s with timer := { s.timer with tma := v } }
  | .tac => .ok () { s with timer := { s.timer with tac := v.extractLsb' 0 3 } }
  | .iflag => .ok () { s with irq := { s.irq with iflag := v.extractLsb' 0 5 } }
  | .audio i => .ok () { s with mem := { s.mem with audio := setByte s.mem.audio i v } }
  | .lcdc => .ok () (writeLcdc v s)
  | .stat => .ok () { s with ppu := { s.ppu with stat := v.extractLsb' 3 4 } }
  | .scy => .ok () { s with ppu := { s.ppu with scy := v } }
  | .scx => .ok () { s with ppu := { s.ppu with scx := v } }
  | .ly => .ok () s
  | .lyc => .ok () { s with ppu := { s.ppu with lyc := v } }
  | .dma => writeDma v s
  | .bgp => .ok () { s with ppu := { s.ppu with bgp := v } }
  | .obp0 => .ok () { s with ppu := { s.ppu with obp0 := v } }
  | .obp1 => .ok () { s with ppu := { s.ppu with obp1 := v } }
  | .wy => .ok () { s with ppu := { s.ppu with wy := v } }
  | .wx => .ok () { s with ppu := { s.ppu with wx := v } }
  | .key1 => .ok () s
  | .vbk => .ok () { s with colour := { s.colour with vbk := v.extractLsb' 0 1 } }
  | .hdma1 => .ok () { s with colour := { s.colour with hdma1 := v } }
  | .hdma2 => .ok () { s with colour := { s.colour with hdma2 := v } }
  | .hdma3 => .ok () { s with colour := { s.colour with hdma3 := v } }
  | .hdma4 => .ok () { s with colour := { s.colour with hdma4 := v } }
  | .hdma5 => writeHdma5 v s
  | .bcps => .ok () { s with colour := { s.colour with bcpsAuto := v.getLsbD 7, bcpsIndex := v.extractLsb' 0 6 } }
  | .bcpd => .ok () (writeBcpd v s)
  | .ocps => .ok () { s with colour := { s.colour with ocpsAuto := v.getLsbD 7, ocpsIndex := v.extractLsb' 0 6 } }
  | .ocpd => .ok () (writeOcpd v s)
  | .svbk => .ok () { s with colour := { s.colour with svbk := v.extractLsb' 0 3 } }

/-! ### `BusWrite` -/

/-- `BusWrite(a, v)` (R71, with R72 to R75, R79, R80 and `MapperWrite` of R137). -/
def busWrite (a : Word) (v : Byte) (s : State) : Res Unit :=
  match busOwner s.colorMode a with
  | .rom n => .ok () { s with cart := mapperRegisterWrite s.cart n v }
  | .vram off => .ok () (setVram (vramBank s) off v s)
  | .cartRam off =>
    match ramAccess s.cart off with
    | .cell k => .ok () (setCartRam k v s)
    | .closed => .ok () s
    | .unmodelled => raiseFault (.unmodelledMapperFeature a s.cart.ramBankReg) s
  | .wramFixed off => .ok () (setWram off v s)
  | .wramBanked off => .ok () (setWram (4096 * wramBank s + off) v s)
  | .oam off => .ok () (setOam off v s)
  | .io r => ioWrite r v s
  | .hram off => .ok () (setHram off v s)
  | .ie => .ok () { s with irq := { s.irq with ie := v } }
  | .nobody => raiseFault (.unmappedAccess a .write) s

end Sys2Proof.Machine
end

