-- ==== Sys2Proof/Machine/Ops.lean ====
section
/-!
DEFINITION. The named operations over memory and registers (00_scope.md R15, R16): the CPU's ticking memory primitives, fetch, push
and pop, taking an interrupt (R405) and the return from one (R340), and the fetch of an instruction.
-/

namespace Sys2Proof.Machine

/-! ### Memory primitives (R15) -/

/-- `BusRead(a)` as an operation: the byte, or the fault raised. -/
def busReadOp (a : Word) (s : State) : Res Byte :=
  match busRead s a with
  | .byte v => .ok v s
  | .fault f => raiseFault f s

/-- `MemRead(a, 1)` (R15): one tick and one bus read, in the order `TICK_BEFORE_ACCESS` says. -/
def memRead (a : Word) (s : State) : Res Byte :=
  if s.cfg.tickBeforeAccess then (tick s).andThen fun _ t => busReadOp a t
  else (busReadOp a s).andThen fun v t => (tick t).andThen fun _ u => .ok v u

/-- `MemWrite(a, 1, v)` (R15): one tick and one bus write, in the order `TICK_BEFORE_ACCESS` says. -/
def memWrite (a : Word) (v : Byte) (s : State) : Res Unit :=
  if s.cfg.tickBeforeAccess then (tick s).andThen fun _ t => busWrite a v t
  else (busWrite a v s).andThen fun _ t => tick t

/-- `MemWrite(a, 2, v)` (R15): the low byte at `a`, then the high byte at `a + 1`. -/
def memWrite16 (a v : Word) (s : State) : Res Unit :=
  (memWrite a (lowByte v) s).andThen fun _ t => memWrite (a + 1#16) (highByte v) t

/-- `InternalTick()` (R16). -/
def internalTick (s : State) : Res Unit := tick s

/-- `Fetch8()` (R15). -/
def fetch8 (s : State) : Res Byte :=
  (memRead s.cpu.pc s).andThen fun b t => .ok b (t.setPc (t.cpu.pc + 1#16))

/-- One byte of `Push16` (R15): `SP <- SP - 1`, then the byte is written at `SP`. -/
def pushByte (v : Byte) (s : State) : Res Unit :=
  let t := s.setSp (s.cpu.sp - 1#16)
  memWrite t.cpu.sp v t

/-- `Push16(v)` (R15): the high byte first. -/
def push16 (v : Word) (s : State) : Res Unit :=
  (pushByte (highByte v) s).andThen fun _ t => pushByte (lowByte v) t

/-- One byte of `Pop16` (R15): the byte is read at `SP`, then `SP <- SP + 1`. -/
def popByte (s : State) : Res Byte :=
  (memRead s.cpu.sp s).andThen fun v t => .ok v (t.setSp (t.cpu.sp + 1#16))

/-- `Pop16()` (R15): the low byte first. -/
def pop16 (s : State) : Res Word :=
  (popByte s).andThen fun lo t => (popByte t).andThen fun hi u => .ok (joinBytes hi lo) u

/-! ### Taking an interrupt and returning from one -/

/-- `Dispatch(i)` (R405): two dummy ticks, `PC` pushed, `IME` and `IF[i]` cleared, the vector, and a fifth tick. -/
def takeInterrupt (i : Fin 5) (s : State) : Res Unit :=
  (internalTick s).andThen fun _ s1 =>
    (internalTick s1).andThen fun _ s2 =>
      (push16 s2.cpu.pc s2).andThen fun _ s3 =>
        internalTick ((clearInterrupt i (s3.setIme false)).setPc (interruptVector i))

/-- The return of `RET` (R338): `PC` popped, and one tick. -/
def returnFromCall (s : State) : Res Unit :=
  (pop16 s).andThen fun v t => internalTick (t.setPc v)

/-- The return from an interrupt (R340, R410): `RET`, then `IME <- 1`, and nothing else restored. -/
def returnFromInterrupt (s : State) : Res Unit :=
  (returnFromCall s).andThen fun _ t => .ok () (t.setIme true)

/-! ### Fetching an instruction -/

/-- The operand bytes of the instruction that begins with `op`, fetched with `Fetch8()` (R160), and the instruction. Every rule
fetches all its operand bytes before it does anything else, so they are fetched here (log 5). -/
def fetchOperands (op : Byte) (s : State) : Res Instr :=
  match opLength op with
  | 2 => (fetch8 s).andThen fun lo t => .ok (decodeInstr op lo 0x00#8) t
  | 3 => (fetch8 s).andThen fun lo t => (fetch8 t).andThen fun hi u => .ok (decodeInstr op lo hi) u
  | _ => .ok (decodeInstr op 0x00#8 0x00#8) s

/-- The fetch of the instruction at `PC` (R400, R408). -/
def fetchInstr (s : State) : Res Instr := (fetch8 s).andThen fun op t => fetchOperands op t

/-- What a step does once the interrupts have been examined: it is over, or it runs an instruction that has been fetched. -/
inductive StepPlan where
  | over (s : State)
  | run (i : Instr) (s : State)
deriving DecidableEq, Repr

/-- The plan after an operation that ends the step. -/
def planEnd (r : Res Unit) : StepPlan :=
  match r with
  | .ok _ s => .over s
  | .raised s => .over s

/-- The part of a step after the interrupt test (R400): a halted tick (R403), or the fetch of an instruction. -/
def planFetch (s : State) : StepPlan :=
  if s.cpu.halted then planEnd (tick s)
  else
    match fetchInstr s with
    | .ok i t => .run i t
    | .raised t => .over t

/-- `Step()` up to `Execute` (R400): a pending interrupt ends the halt state, and is dispatched if `IME = 1` (R402). -/
def stepPlan (s : State) : StepPlan :=
  match lowestSetBit (pendingInterrupts s) with
  | none => planFetch s
  | some i =>
    let t := s.setHalted false
    if t.cpu.ime then planEnd (takeInterrupt i t) else planFetch t

end Sys2Proof.Machine
end

