-- ==== Sys2Proof/Machine/Operands.lean ====
section
/-!
DEFINITION. The operand forms: how an operation of Flags.lean is applied to a register, to the byte at `HL`, or to an immediate
byte (R23, R250, R300). Every meaning is one of these, or one of Ops.lean, with its operation filled in.
-/

namespace Sys2Proof.Machine

/-- The accumulator and the flags written. -/
def State.setAF (s : State) (r : Byte × Flags) : State := s.withCpu { s.cpu with a := r.1, flags := r.2 }

/-- A register operand and the flags written. -/
def State.setRegFlags (s : State) (r : Reg8) (v : Byte) (f : Flags) : State := (s.setReg8 r v).setFlags f

/-- `MemRead(HL, 1)`. -/
def readAtHl (s : State) : Res Byte := memRead s.cpu.hl s

/-- `MemWrite(HL, 1, v)`. -/
def writeAtHl (v : Byte) (s : State) : Res Unit := memWrite s.cpu.hl v s

/-! ### Two-operand operations on the accumulator (R250) -/

/-- The operation on `A` and the byte `b`. -/
def aluApply (op : AluOp) (b : Byte) (s : State) : State := s.setAF (op s.cpu.flags s.cpu.a b)

/-- The register form. -/
def aluReg (op : AluOp) (r : Reg8) (s : State) : Res Unit := .ok () (aluApply op (s.cpu.get8 r) s)

/-- The `(HL)` form. -/
def aluHl (op : AluOp) (s : State) : Res Unit := (readAtHl s).andThen fun b t => .ok () (aluApply op b t)

/-- The immediate form. -/
def aluImm (op : AluOp) (n : Byte) (s : State) : Res Unit := .ok () (aluApply op n s)

/-! ### Read, modify and write of one byte: a new value and new flags from the old ones -/

/-- A change of a byte and of the flags. -/
abbrev ByteOp := Flags → Byte → Byte × Flags

/-- On a register. -/
def modifyReg (op : ByteOp) (r : Reg8) (s : State) : Res Unit :=
  let v := op s.cpu.flags (s.cpu.get8 r)
  .ok () (s.setRegFlags r v.1 v.2)

/-- On the byte at `HL`: the flags are written before the write (R276, R306). -/
def modifyHl (op : ByteOp) (s : State) : Res Unit :=
  (readAtHl s).andThen fun b t =>
    let v := op t.cpu.flags b
    writeAtHl v.1 (t.setFlags v.2)

/-- A prefixed rotate or shift as a change of a byte and of the flags (R305): the old carry is the carry-in. -/
def shiftByte (op : ShiftOp) : ByteOp := fun f v => ((op f.c v).1, shiftFlags (op f.c v).1 (op f.c v).2)

/-- A one-byte accumulator rotate (R301). -/
def rotateAcc (op : ShiftOp) (s : State) : Res Unit :=
  let r := op s.cpu.flags.c s.cpu.a
  .ok () (s.setAF (r.1, accRotateFlags r.2))

/-- `RES b` as a change of a byte that writes no flag (R323). -/
def resByte (bn : Fin 8) : ByteOp := fun f v => (resetBit bn v, f)

/-- `SET b` as a change of a byte that writes no flag (R325). -/
def setByteBit (bn : Fin 8) : ByteOp := fun f v => (setBit bn v, f)

/-! ### Loads and stores through an address -/

/-- `r <- MemRead(a, 1)`. -/
def loadReg (r : Reg8) (a : Word) (s : State) : Res Unit := (memRead a s).andThen fun v t => .ok () (t.setReg8 r v)

/-- `HL <- HL + d` after an operation (R216 to R219). -/
def stepHl (d : Word) (r : Res Unit) : Res Unit := r.andThen fun _ t => .ok () (t.setHl (t.cpu.hl + d))

/-! ### Transfers of control (45_control_flow.md) -/

/-- `PC <- target; InternalTick()`. -/
def jumpTo (target : Word) (s : State) : Res Unit := internalTick (s.setPc target)

/-- `InternalTick(); Push16(PC); PC <- target`. -/
def callTo (target : Word) (s : State) : Res Unit :=
  (internalTick s).andThen fun _ t => (push16 t.cpu.pc t).andThen fun _ u => .ok () (u.setPc target)

/-- An operation that runs only if the condition holds. -/
def onCond (cc : Cond) (op : State → Res Unit) (s : State) : Res Unit :=
  if condHolds cc s.cpu.flags then op s else .ok () s

end Sys2Proof.Machine
end

