-- ==== Sys2Proof/Machine/Alu16.lean ====
section
/-!
DEFINITION. 16-bit arithmetic (43_alu16.md).
-/

namespace Sys2Proof.Machine

/-- `ADD HL,rr` (R291). -/
def execAddHlRr (rr : Reg16) (s : State) : Host.Outcome State Fault Refusal :=
  let r := addHl16 s.cpu.flags s.cpu.hl (s.cpu.get16 rr)
  finish (internalTick ((s.setHl r.1).setFlags r.2))

/-- `INC rr` (R292). -/
def execIncRr (rr : Reg16) (s : State) : Host.Outcome State Fault Refusal :=
  finish (internalTick (s.withCpu (s.cpu.set16 rr (s.cpu.get16 rr + 1#16))))

/-- `DEC rr` (R293). -/
def execDecRr (rr : Reg16) (s : State) : Host.Outcome State Fault Refusal :=
  finish (internalTick (s.withCpu (s.cpu.set16 rr (s.cpu.get16 rr - 1#16))))

/-- `ADD SP,e` (R294). -/
def execAddSpE (e : Byte) (s : State) : Host.Outcome State Fault Refusal :=
  let r := spPlus s.cpu.sp e
  finish ((internalTick ((s.setSp r.1).setFlags r.2)).andThen fun _ t => internalTick t)

end Sys2Proof.Machine
end

