-- ==== Sys2Proof/Machine/Alu8.lean ====
section
/-!
DEFINITION. 8-bit arithmetic and logic (42_alu8.md).
-/

namespace Sys2Proof.Machine

/-- `ADD A,r` (R251). -/
def execAddAR (r : Reg8) (s : State) : Host.Outcome State Fault Refusal :=
  finish (aluReg aluAdd r s)

/-- `ADD A,(HL)` (R252). -/
def execAddAHl (s : State) : Host.Outcome State Fault Refusal :=
  finish (aluHl aluAdd s)

/-- `ADD A,n` (R253). -/
def execAddAN (n : Byte) (s : State) : Host.Outcome State Fault Refusal :=
  finish (aluImm aluAdd n s)

/-- `ADC A,r` (R254). -/
def execAdcAR (r : Reg8) (s : State) : Host.Outcome State Fault Refusal :=
  finish (aluReg aluAdc r s)

/-- `ADC A,(HL)` (R255). -/
def execAdcAHl (s : State) : Host.Outcome State Fault Refusal :=
  finish (aluHl aluAdc s)

/-- `ADC A,n` (R256). -/
def execAdcAN (n : Byte) (s : State) : Host.Outcome State Fault Refusal :=
  finish (aluImm aluAdc n s)

/-- `SUB r` (R257). -/
def execSubR (r : Reg8) (s : State) : Host.Outcome State Fault Refusal :=
  finish (aluReg aluSub r s)

/-- `SUB (HL)` (R258). -/
def execSubHl (s : State) : Host.Outcome State Fault Refusal :=
  finish (aluHl aluSub s)

/-- `SUB n` (R259). -/
def execSubN (n : Byte) (s : State) : Host.Outcome State Fault Refusal :=
  finish (aluImm aluSub n s)

/-- `SBC A,r` (R260). -/
def execSbcAR (r : Reg8) (s : State) : Host.Outcome State Fault Refusal :=
  finish (aluReg aluSbc r s)

/-- `SBC A,(HL)` (R261). -/
def execSbcAHl (s : State) : Host.Outcome State Fault Refusal :=
  finish (aluHl aluSbc s)

/-- `SBC A,n` (R262). -/
def execSbcAN (n : Byte) (s : State) : Host.Outcome State Fault Refusal :=
  finish (aluImm aluSbc n s)

/-- `AND r` (R263). -/
def execAndR (r : Reg8) (s : State) : Host.Outcome State Fault Refusal :=
  finish (aluReg aluAnd r s)

/-- `AND (HL)` (R264). -/
def execAndHl (s : State) : Host.Outcome State Fault Refusal :=
  finish (aluHl aluAnd s)

/-- `AND n` (R265). -/
def execAndN (n : Byte) (s : State) : Host.Outcome State Fault Refusal :=
  finish (aluImm aluAnd n s)

/-- `XOR r` (R266). -/
def execXorR (r : Reg8) (s : State) : Host.Outcome State Fault Refusal :=
  finish (aluReg aluXor r s)

/-- `XOR (HL)` (R267). -/
def execXorHl (s : State) : Host.Outcome State Fault Refusal :=
  finish (aluHl aluXor s)

/-- `XOR n` (R268). -/
def execXorN (n : Byte) (s : State) : Host.Outcome State Fault Refusal :=
  finish (aluImm aluXor n s)

/-- `OR r` (R269). -/
def execOrR (r : Reg8) (s : State) : Host.Outcome State Fault Refusal :=
  finish (aluReg aluOr r s)

/-- `OR (HL)` (R270). -/
def execOrHl (s : State) : Host.Outcome State Fault Refusal :=
  finish (aluHl aluOr s)

/-- `OR n` (R271). -/
def execOrN (n : Byte) (s : State) : Host.Outcome State Fault Refusal :=
  finish (aluImm aluOr n s)

/-- `CP r` (R272). -/
def execCpR (r : Reg8) (s : State) : Host.Outcome State Fault Refusal :=
  finish (aluReg aluCp r s)

/-- `CP (HL)` (R273). -/
def execCpHl (s : State) : Host.Outcome State Fault Refusal :=
  finish (aluHl aluCp s)

/-- `CP n` (R274). -/
def execCpN (n : Byte) (s : State) : Host.Outcome State Fault Refusal :=
  finish (aluImm aluCp n s)

/-- `INC r` (R275). -/
def execIncR (r : Reg8) (s : State) : Host.Outcome State Fault Refusal :=
  finish (modifyReg inc8 r s)

/-- `INC (HL)` (R276). -/
def execIncHl (s : State) : Host.Outcome State Fault Refusal :=
  finish (modifyHl inc8 s)

/-- `DEC r` (R277). -/
def execDecR (r : Reg8) (s : State) : Host.Outcome State Fault Refusal :=
  finish (modifyReg dec8 r s)

/-- `DEC (HL)` (R278). -/
def execDecHl (s : State) : Host.Outcome State Fault Refusal :=
  finish (modifyHl dec8 s)

/-- `DAA` (R279). -/
def execDaa (s : State) : Host.Outcome State Fault Refusal :=
  finish (.ok () (s.setAF (daa8 s.cpu.a s.cpu.flags)))

/-- `CPL` (R280). -/
def execCpl (s : State) : Host.Outcome State Fault Refusal :=
  finish (.ok () (s.setAF (~~~s.cpu.a, cplFlags s.cpu.flags)))

/-- `SCF` (R281). -/
def execScf (s : State) : Host.Outcome State Fault Refusal :=
  finish (.ok () (s.setFlags (scfFlags s.cpu.flags)))

/-- `CCF` (R282). -/
def execCcf (s : State) : Host.Outcome State Fault Refusal :=
  finish (.ok () (s.setFlags (ccfFlags s.cpu.flags)))

end Sys2Proof.Machine
end

