-- ==== Sys2Proof/Machine/Control.lean ====
section
/-!
DEFINITION. Control transfer (45_control_flow.md). `PC` holds the address of the following instruction (R330).
-/

namespace Sys2Proof.Machine

/-- `JP nn` (R331). -/
def execJpNn (nn : Word) (s : State) : Host.Outcome State Fault Refusal :=
  finish (jumpTo nn s)

/-- `JP cc,nn` (R332). -/
def execJpCcNn (cc : Cond) (nn : Word) (s : State) : Host.Outcome State Fault Refusal :=
  finish (onCond cc (jumpTo nn) s)

/-- `JP HL` (R333). -/
def execJpHl (s : State) : Host.Outcome State Fault Refusal :=
  finish (.ok () (s.setPc s.cpu.hl))

/-- `JR e` (R334). -/
def execJrE (e : Byte) (s : State) : Host.Outcome State Fault Refusal :=
  finish (jumpTo (s.cpu.pc + sext16 e) s)

/-- `JR cc,e` (R335). -/
def execJrCcE (cc : Cond) (e : Byte) (s : State) : Host.Outcome State Fault Refusal :=
  finish (onCond cc (jumpTo (s.cpu.pc + sext16 e)) s)

/-- `CALL nn` (R336). -/
def execCallNn (nn : Word) (s : State) : Host.Outcome State Fault Refusal :=
  finish (callTo nn s)

/-- `CALL cc,nn` (R337). -/
def execCallCcNn (cc : Cond) (nn : Word) (s : State) : Host.Outcome State Fault Refusal :=
  finish (onCond cc (callTo nn) s)

/-- `RET` (R338). -/
def execRet (s : State) : Host.Outcome State Fault Refusal :=
  finish (returnFromCall s)

/-- `RET cc` (R339): the first tick is spent whether or not the condition holds. -/
def execRetCc (cc : Cond) (s : State) : Host.Outcome State Fault Refusal :=
  finish ((internalTick s).andThen fun _ t => onCond cc returnFromCall t)

/-- `RETI` (R340). -/
def execReti (s : State) : Host.Outcome State Fault Refusal :=
  finish (returnFromInterrupt s)

/-- `RST t` (R343). -/
def execRstT (t : Byte) (s : State) : Host.Outcome State Fault Refusal :=
  finish (callTo (joinBytes 0x00#8 t) s)

end Sys2Proof.Machine
end

