-- ==== Sys2Proof/Machine/Load16.lean ====
section
/-!
DEFINITION. The 16-bit loads, `PUSH` and `POP` (41_load16_stack.md).
-/

namespace Sys2Proof.Machine

/-- `LD rr,nn` (R231). -/
def execLdRrNn (rr : Reg16) (nn : Word) (s : State) : Host.Outcome State Fault Refusal :=
  finish (.ok () (s.withCpu (s.cpu.set16 rr nn)))

/-- `LD (nn),SP` (R232): low byte first. -/
def execLdNnSp (nn : Word) (s : State) : Host.Outcome State Fault Refusal :=
  finish (memWrite16 nn s.cpu.sp s)

/-- `LD SP,HL` (R233). -/
def execLdSpHl (s : State) : Host.Outcome State Fault Refusal :=
  finish (internalTick (s.setSp s.cpu.hl))

/-- `LD HL,SP+e` (R234): the flags come from the low byte of `SP`. -/
def execLdHlSpE (e : Byte) (s : State) : Host.Outcome State Fault Refusal :=
  let r := spPlus s.cpu.sp e
  finish (internalTick ((s.setHl r.1).setFlags r.2))

/-- `PUSH rr` (R235). -/
def execPushQq (qq : Reg16Stk) (s : State) : Host.Outcome State Fault Refusal :=
  finish ((internalTick s).andThen fun _ t => push16 (t.cpu.getStk qq) t)

/-- `POP rr` (R236): `POP AF` drops bits 3 to 0 of the low byte. -/
def execPopQq (qq : Reg16Stk) (s : State) : Host.Outcome State Fault Refusal :=
  finish ((pop16 s).andThen fun v t => .ok () (t.withCpu (t.cpu.setStk qq v)))

end Sys2Proof.Machine
end

