-- ==== Sys2Proof/Machine/Load8.lean ====
section
/-!
DEFINITION. The 8-bit loads (40_load8.md). The bytes of the instruction have been fetched: one tick each, `PC` after them (R200).
-/

namespace Sys2Proof.Machine

/-- `LD r,r'` (R201). -/
def execLdRR (r r' : Reg8) (s : State) : Host.Outcome State Fault Refusal :=
  finish (.ok () (s.setReg8 r (s.cpu.get8 r')))

/-- `LD r,n` (R202). -/
def execLdRN (r : Reg8) (n : Byte) (s : State) : Host.Outcome State Fault Refusal :=
  finish (.ok () (s.setReg8 r n))

/-- `LD r,(HL)` (R203): the address is the old `HL`. -/
def execLdRHl (r : Reg8) (s : State) : Host.Outcome State Fault Refusal :=
  finish (loadReg r s.cpu.hl s)

/-- `LD (HL),r` (R204). -/
def execLdHlR (r : Reg8) (s : State) : Host.Outcome State Fault Refusal :=
  finish (writeAtHl (s.cpu.get8 r) s)

/-- `LD (HL),n` (R205). -/
def execLdHlN (n : Byte) (s : State) : Host.Outcome State Fault Refusal :=
  finish (writeAtHl n s)

/-- `LD A,(BC)` (R206). -/
def execLdABc (s : State) : Host.Outcome State Fault Refusal :=
  finish (loadReg .a s.cpu.bc s)

/-- `LD A,(DE)` (R207). -/
def execLdADe (s : State) : Host.Outcome State Fault Refusal :=
  finish (loadReg .a s.cpu.de s)

/-- `LD (BC),A` (R208). -/
def execLdBcA (s : State) : Host.Outcome State Fault Refusal :=
  finish (memWrite s.cpu.bc s.cpu.a s)

/-- `LD (DE),A` (R209). -/
def execLdDeA (s : State) : Host.Outcome State Fault Refusal :=
  finish (memWrite s.cpu.de s.cpu.a s)

/-- `LD A,(nn)` (R210). -/
def execLdANn (nn : Word) (s : State) : Host.Outcome State Fault Refusal :=
  finish (loadReg .a nn s)

/-- `LD (nn),A` (R211). -/
def execLdNnA (nn : Word) (s : State) : Host.Outcome State Fault Refusal :=
  finish (memWrite nn s.cpu.a s)

/-- `LDH A,(C)` (R212). -/
def execLdhAC (s : State) : Host.Outcome State Fault Refusal :=
  finish (loadReg .a (highPage s.cpu.c) s)

/-- `LDH (C),A` (R213). -/
def execLdhCA (s : State) : Host.Outcome State Fault Refusal :=
  finish (memWrite (highPage s.cpu.c) s.cpu.a s)

/-- `LDH A,(n)` (R214). -/
def execLdhAN (n : Byte) (s : State) : Host.Outcome State Fault Refusal :=
  finish (loadReg .a (highPage n) s)

/-- `LDH (n),A` (R215). -/
def execLdhNA (n : Byte) (s : State) : Host.Outcome State Fault Refusal :=
  finish (memWrite (highPage n) s.cpu.a s)

/-- `LD (HL+),A` (R216): on a fault `HL` does not move. -/
def execLdHliA (s : State) : Host.Outcome State Fault Refusal :=
  finish (stepHl 1#16 (writeAtHl s.cpu.a s))

/-- `LD A,(HL+)` (R217): on a fault neither `A` nor `HL` changes. -/
def execLdAHli (s : State) : Host.Outcome State Fault Refusal :=
  finish (stepHl 1#16 (loadReg .a s.cpu.hl s))

/-- `LD (HL-),A` (R218): on a fault `HL` does not move. -/
def execLdHldA (s : State) : Host.Outcome State Fault Refusal :=
  finish (stepHl (-1#16) (writeAtHl s.cpu.a s))

/-- `LD A,(HL-)` (R219): on a fault neither `A` nor `HL` changes. -/
def execLdAHld (s : State) : Host.Outcome State Fault Refusal :=
  finish (stepHl (-1#16) (loadReg .a s.cpu.hl s))

end Sys2Proof.Machine
end

