-- ==== Sys2Proof/Machine/Prefix.lean ====
section
/-!
DEFINITION. The prefix byte 0xCB as a row of the primary table (46_system.md R357): its meaning runs the instruction that the byte
after it selects, by the fields `x`, `y`, `z` of 30_encoding.md R168. A word after 0xCB decodes to that instruction itself (log 6).
-/

namespace Sys2Proof.Machine

/-- The rotate or shift that field `y` selects (R168, R300). -/
def shiftOfField (y : Nat) : ShiftOp :=
  match y with
  | 0 => shiftRlc
  | 1 => shiftRrc
  | 2 => shiftRl
  | 3 => shiftRr
  | 4 => shiftSla
  | 5 => shiftSra
  | 6 => shiftSwap
  | _ => shiftSrl

/-- A change of the operand `r8[z]`: a register, or the byte at `HL`. -/
def modifyOperand (op : ByteOp) (r : Option Reg8) (s : State) : Res Unit :=
  match r with
  | some r => modifyReg op r s
  | none => modifyHl op s

/-- `BIT` on the operand `r8[z]` (R321, R322). -/
def testOperand (bn : Fin 8) (r : Option Reg8) (s : State) : Res Unit :=
  match r with
  | some r => .ok () (s.setFlags (bitFlags s.cpu.flags bn (s.cpu.get8 r)))
  | none => (readAtHl s).andThen fun v t => .ok () (t.setFlags (bitFlags t.cpu.flags bn v))

/-- `PREFIX CB` (R357), the byte `sub` fetched. -/
def execPrefixCb (sub : Byte) (s : State) : Host.Outcome State Fault Refusal :=
  let bn : Fin 8 := Fin.ofNat 8 (opY sub)
  let r := reg8OfIndex (opZ sub)
  match opX sub with
  | 0 => finish (modifyOperand (shiftByte (shiftOfField (opY sub))) r s)
  | 1 => finish (testOperand bn r s)
  | 2 => finish (modifyOperand (resByte bn) r s)
  | _ => finish (modifyOperand (setByteBit bn) r s)

end Sys2Proof.Machine
end

