-- ==== Sys2Proof/Machine/Rotate.lean ====
section
/-!
DEFINITION. Rotates, shifts and single-bit instructions (44_rotate_shift_bit.md). The prefix and its second byte have been fetched.
-/

namespace Sys2Proof.Machine

/-- `RLCA` (R301). -/
def execRlca (s : State) : Host.Outcome State Fault Refusal :=
  finish (rotateAcc shiftRlc s)

/-- `RRCA` (R302). -/
def execRrca (s : State) : Host.Outcome State Fault Refusal :=
  finish (rotateAcc shiftRrc s)

/-- `RLA` (R303). -/
def execRla (s : State) : Host.Outcome State Fault Refusal :=
  finish (rotateAcc shiftRl s)

/-- `RRA` (R304). -/
def execRra (s : State) : Host.Outcome State Fault Refusal :=
  finish (rotateAcc shiftRr s)

/-- `RLC r` (R305). -/
def execRlcR (r : Reg8) (s : State) : Host.Outcome State Fault Refusal :=
  finish (modifyReg (shiftByte shiftRlc) r s)

/-- `RLC (HL)` (R306). -/
def execRlcHl (s : State) : Host.Outcome State Fault Refusal :=
  finish (modifyHl (shiftByte shiftRlc) s)

/-- `RRC r` (R307). -/
def execRrcR (r : Reg8) (s : State) : Host.Outcome State Fault Refusal :=
  finish (modifyReg (shiftByte shiftRrc) r s)

/-- `RRC (HL)` (R308). -/
def execRrcHl (s : State) : Host.Outcome State Fault Refusal :=
  finish (modifyHl (shiftByte shiftRrc) s)

/-- `RL r` (R309). -/
def execRlR (r : Reg8) (s : State) : Host.Outcome State Fault Refusal :=
  finish (modifyReg (shiftByte shiftRl) r s)

/-- `RL (HL)` (R310). -/
def execRlHl (s : State) : Host.Outcome State Fault Refusal :=
  finish (modifyHl (shiftByte shiftRl) s)

/-- `RR r` (R311). -/
def execRrR (r : Reg8) (s : State) : Host.Outcome State Fault Refusal :=
  finish (modifyReg (shiftByte shiftRr) r s)

/-- `RR (HL)` (R312). -/
def execRrHl (s : State) : Host.Outcome State Fault Refusal :=
  finish (modifyHl (shiftByte shiftRr) s)

/-- `SLA r` (R313). -/
def execSlaR (r : Reg8) (s : State) : Host.Outcome State Fault Refusal :=
  finish (modifyReg (shiftByte shiftSla) r s)

/-- `SLA (HL)` (R314). -/
def execSlaHl (s : State) : Host.Outcome State Fault Refusal :=
  finish (modifyHl (shiftByte shiftSla) s)

/-- `SRA r` (R315). -/
def execSraR (r : Reg8) (s : State) : Host.Outcome State Fault Refusal :=
  finish (modifyReg (shiftByte shiftSra) r s)

/-- `SRA (HL)` (R316). -/
def execSraHl (s : State) : Host.Outcome State Fault Refusal :=
  finish (modifyHl (shiftByte shiftSra) s)

/-- `SWAP r` (R317). -/
def execSwapR (r : Reg8) (s : State) : Host.Outcome State Fault Refusal :=
  finish (modifyReg (shiftByte shiftSwap) r s)

/-- `SWAP (HL)` (R318). -/
def execSwapHl (s : State) : Host.Outcome State Fault Refusal :=
  finish (modifyHl (shiftByte shiftSwap) s)

/-- `SRL r` (R319). -/
def execSrlR (r : Reg8) (s : State) : Host.Outcome State Fault Refusal :=
  finish (modifyReg (shiftByte shiftSrl) r s)

/-- `SRL (HL)` (R320). -/
def execSrlHl (s : State) : Host.Outcome State Fault Refusal :=
  finish (modifyHl (shiftByte shiftSrl) s)

/-- `BIT b,r` (R321). -/
def execBitBR (bn : Fin 8) (r : Reg8) (s : State) : Host.Outcome State Fault Refusal :=
  finish (.ok () (s.setFlags (bitFlags s.cpu.flags bn (s.cpu.get8 r))))

/-- `BIT b,(HL)` (R322): nothing is written back. -/
def execBitBHl (bn : Fin 8) (s : State) : Host.Outcome State Fault Refusal :=
  finish ((readAtHl s).andThen fun v t => .ok () (t.setFlags (bitFlags t.cpu.flags bn v)))

/-- `RES b,r` (R323). -/
def execResBR (bn : Fin 8) (r : Reg8) (s : State) : Host.Outcome State Fault Refusal :=
  finish (modifyReg (resByte bn) r s)

/-- `RES b,(HL)` (R324). -/
def execResBHl (bn : Fin 8) (s : State) : Host.Outcome State Fault Refusal :=
  finish (modifyHl (resByte bn) s)

/-- `SET b,r` (R325). -/
def execSetBR (bn : Fin 8) (r : Reg8) (s : State) : Host.Outcome State Fault Refusal :=
  finish (modifyReg (setByteBit bn) r s)

/-- `SET b,(HL)` (R326). -/
def execSetBHl (bn : Fin 8) (s : State) : Host.Outcome State Fault Refusal :=
  finish (modifyHl (setByteBit bn) s)

end Sys2Proof.Machine
end

