-- ==== Sys2Proof/Machine/System.lean ====
section
/-!
DEFINITION. System instructions, illegal opcodes and the prefix byte (46_system.md). `HALT` is in Halt.lean.
-/

namespace Sys2Proof.Machine

/-- `raise Fault(IllegalOpcode, (op, PC - 1))` (R356). -/
def raiseIllegal (op : Byte) (s : State) : Res Unit := raiseFault (.illegalOpcode op (s.cpu.pc - 1#16)) s

/-- `NOP` (R351). -/
def execNop (s : State) : Host.Outcome State Fault Refusal :=
  finish (.ok () s)

/-- `STOP` (R353): the sticky fault is the effect the spec gives it. -/
def execStop (s : State) : Host.Outcome State Fault Refusal :=
  finish (raiseFault (.unmodelledStop (s.cpu.pc - 1#16)) s)

/-- `DI` (R354): at once. -/
def execDi (s : State) : Host.Outcome State Fault Refusal :=
  finish (.ok () (s.setIme false))

/-- `EI` (R355): at once. -/
def execEi (s : State) : Host.Outcome State Fault Refusal :=
  finish (.ok () (s.setIme true))

/-- `ILLEGAL_D3` (R356). -/
def execIllegalD3 (s : State) : Host.Outcome State Fault Refusal :=
  finish (raiseIllegal 0xD3#8 s)

/-- `ILLEGAL_DB` (R356). -/
def execIllegalDB (s : State) : Host.Outcome State Fault Refusal :=
  finish (raiseIllegal 0xDB#8 s)

/-- `ILLEGAL_DD` (R356). -/
def execIllegalDD (s : State) : Host.Outcome State Fault Refusal :=
  finish (raiseIllegal 0xDD#8 s)

/-- `ILLEGAL_E3` (R356). -/
def execIllegalE3 (s : State) : Host.Outcome State Fault Refusal :=
  finish (raiseIllegal 0xE3#8 s)

/-- `ILLEGAL_E4` (R356). -/
def execIllegalE4 (s : State) : Host.Outcome State Fault Refusal :=
  finish (raiseIllegal 0xE4#8 s)

/-- `ILLEGAL_EB` (R356). -/
def execIllegalEB (s : State) : Host.Outcome State Fault Refusal :=
  finish (raiseIllegal 0xEB#8 s)

/-- `ILLEGAL_EC` (R356). -/
def execIllegalEC (s : State) : Host.Outcome State Fault Refusal :=
  finish (raiseIllegal 0xEC#8 s)

/-- `ILLEGAL_ED` (R356). -/
def execIllegalED (s : State) : Host.Outcome State Fault Refusal :=
  finish (raiseIllegal 0xED#8 s)

/-- `ILLEGAL_F4` (R356). -/
def execIllegalF4 (s : State) : Host.Outcome State Fault Refusal :=
  finish (raiseIllegal 0xF4#8 s)

/-- `ILLEGAL_FC` (R356). -/
def execIllegalFC (s : State) : Host.Outcome State Fault Refusal :=
  finish (raiseIllegal 0xFC#8 s)

/-- `ILLEGAL_FD` (R356). -/
def execIllegalFD (s : State) : Host.Outcome State Fault Refusal :=
  finish (raiseIllegal 0xFD#8 s)

end Sys2Proof.Machine
end

