-- ==== Sys2Proof/Machine/Halt.lean ====
section
/-!
DEFINITION. `HALT` (46_system.md R352). Under `HALT_PENDING_IME0 = refetch` it executes the byte after it as an opcode without moving
`PC` past it, so its meaning needs every other meaning: `runInstr` is `exec` with the meaning of `HALT` left open.
-/

namespace Sys2Proof.Machine

/-- `Execute` (R408) for an instruction inside `HALT`'s refetch, with `onHalt` as the meaning of `HALT`. -/
def runInstr (onHalt : State → Host.Outcome State Fault Refusal) (i : Instr) (s : State) : Host.Outcome State Fault Refusal :=
  match i with
  | .nop => execNop s
  | .ldRrNn rr nn => execLdRrNn rr nn s
  | .ldBcA => execLdBcA s
  | .ldDeA => execLdDeA s
  | .ldHliA => execLdHliA s
  | .ldHldA => execLdHldA s
  | .incRr rr => execIncRr rr s
  | .decRr rr => execDecRr rr s
  | .incR r => execIncR r s
  | .incHl => execIncHl s
  | .decR r => execDecR r s
  | .decHl => execDecHl s
  | .ldRN r n => execLdRN r n s
  | .ldHlN n => execLdHlN n s
  | .rlca => execRlca s
  | .rrca => execRrca s
  | .rla => execRla s
  | .rra => execRra s
  | .daa => execDaa s
  | .cpl => execCpl s
  | .scf => execScf s
  | .ccf => execCcf s
  | .ldNnSp nn => execLdNnSp nn s
  | .stop => execStop s
  | .jrE e => execJrE e s
  | .jrCcE cc e => execJrCcE cc e s
  | .addHlRr rr => execAddHlRr rr s
  | .ldABc => execLdABc s
  | .ldADe => execLdADe s
  | .ldAHli => execLdAHli s
  | .ldAHld => execLdAHld s
  | .ldRR r r' => execLdRR r r' s
  | .ldRHl r => execLdRHl r s
  | .ldHlR r => execLdHlR r s
  | .halt => onHalt s
  | .addAR r => execAddAR r s
  | .addAHl => execAddAHl s
  | .adcAR r => execAdcAR r s
  | .adcAHl => execAdcAHl s
  | .subR r => execSubR r s
  | .subHl => execSubHl s
  | .sbcAR r => execSbcAR r s
  | .sbcAHl => execSbcAHl s
  | .andR r => execAndR r s
  | .andHl => execAndHl s
  | .xorR r => execXorR r s
  | .xorHl => execXorHl s
  | .orR r => execOrR r s
  | .orHl => execOrHl s
  | .cpR r => execCpR r s
  | .cpHl => execCpHl s
  | .retCc cc => execRetCc cc s
  | .ldhNA n => execLdhNA n s
  | .addSpE e => execAddSpE e s
  | .ldhAN n => execLdhAN n s
  | .ldHlSpE e => execLdHlSpE e s
  | .popQq qq => execPopQq qq s
  | .ret => execRet s
  | .reti => execReti s
  | .jpHl => execJpHl s
  | .ldSpHl => execLdSpHl s
  | .jpCcNn cc nn => execJpCcNn cc nn s
  | .ldhCA => execLdhCA s
  | .ldNnA nn => execLdNnA nn s
  | .ldhAC => execLdhAC s
  | .ldANn nn => execLdANn nn s
  | .jpNn nn => execJpNn nn s
  | .prefixCb sub => execPrefixCb sub s
  | .di => execDi s
  | .ei => execEi s
  | .callCcNn cc nn => execCallCcNn cc nn s
  | .pushQq qq => execPushQq qq s
  | .callNn nn => execCallNn nn s
  | .addAN n => execAddAN n s
  | .adcAN n => execAdcAN n s
  | .subN n => execSubN n s
  | .sbcAN n => execSbcAN n s
  | .andN n => execAndN n s
  | .xorN n => execXorN n s
  | .orN n => execOrN n s
  | .cpN n => execCpN n s
  | .rstT t => execRstT t s
  | .illegalD3 => execIllegalD3 s
  | .illegalDB => execIllegalDB s
  | .illegalDD => execIllegalDD s
  | .illegalE3 => execIllegalE3 s
  | .illegalE4 => execIllegalE4 s
  | .illegalEB => execIllegalEB s
  | .illegalEC => execIllegalEC s
  | .illegalED => execIllegalED s
  | .illegalF4 => execIllegalF4 s
  | .illegalFC => execIllegalFC s
  | .illegalFD => execIllegalFD s
  | .rlcR r => execRlcR r s
  | .rlcHl => execRlcHl s
  | .rrcR r => execRrcR r s
  | .rrcHl => execRrcHl s
  | .rlR r => execRlR r s
  | .rlHl => execRlHl s
  | .rrR r => execRrR r s
  | .rrHl => execRrHl s
  | .slaR r => execSlaR r s
  | .slaHl => execSlaHl s
  | .sraR r => execSraR r s
  | .sraHl => execSraHl s
  | .swapR r => execSwapR r s
  | .swapHl => execSwapHl s
  | .srlR r => execSrlR r s
  | .srlHl => execSrlHl s
  | .bitBR bn r => execBitBR bn r s
  | .bitBHl bn => execBitBHl bn s
  | .resBR bn r => execResBR bn r s
  | .resBHl bn => execResBHl bn s
  | .setBR bn r => execSetBR bn r s
  | .setBHl bn => execSetBHl bn s

/-- `op <- MemRead(PC, 1)` with `PC` not incremented, and the operands of `op`, fetched from `PC` on (R352). -/
def refetchInstr (s : State) : Res Instr := (memRead s.cpu.pc s).andThen fun op t => fetchOperands op t

/-- `HALT` (R352). Under `refetch` the instruction read runs in the same step; where it is `HALT` again, it is left to the next step
(log 7), so that a `PC` that reads `HALT` for as long as it may never ends the machine. -/
def execHalt (s : State) : Host.Outcome State Fault Refusal :=
  if pendingInterrupts s = 0#5 then .next (s.setHalted true)
  else if s.cpu.ime then .next s
  else
    match s.cfg.haltPendingIme0 with
    | .fault => finish (raiseFault (.haltWithPendingInterrupt (pendingInterrupts s)) s)
    | .nop => .next s
    | .refetch =>
      match refetchInstr s with
      | .ok i t => runInstr (fun u => .next (u.setHaltAgain true)) i t
      | .raised t => .next t

end Sys2Proof.Machine
end

