-- ==== Sys2Proof/Machine/Dispatch.lean ====
section
/-! DEFINITION. One arm per constructor of `Instr`: the meaning of each instruction (60_exceptions.md R408). -/

namespace Sys2Proof.Machine

def exec (i : Instr) (s : State) : Host.Outcome State Fault Refusal :=
  match i with
  | .nop => Sys2Proof.Machine.execNop s
  | .ldRrNn rr nn => Sys2Proof.Machine.execLdRrNn rr nn s
  | .ldBcA => Sys2Proof.Machine.execLdBcA s
  | .ldDeA => Sys2Proof.Machine.execLdDeA s
  | .ldHliA => Sys2Proof.Machine.execLdHliA s
  | .ldHldA => Sys2Proof.Machine.execLdHldA s
  | .incRr rr => Sys2Proof.Machine.execIncRr rr s
  | .decRr rr => Sys2Proof.Machine.execDecRr rr s
  | .incR r => Sys2Proof.Machine.execIncR r s
  | .incHl => Sys2Proof.Machine.execIncHl s
  | .decR r => Sys2Proof.Machine.execDecR r s
  | .decHl => Sys2Proof.Machine.execDecHl s
  | .ldRN r n => Sys2Proof.Machine.execLdRN r n s
  | .ldHlN n => Sys2Proof.Machine.execLdHlN n s
  | .rlca => Sys2Proof.Machine.execRlca s
  | .rrca => Sys2Proof.Machine.execRrca s
  | .rla => Sys2Proof.Machine.execRla s
  | .rra => Sys2Proof.Machine.execRra s
  | .daa => Sys2Proof.Machine.execDaa s
  | .cpl => Sys2Proof.Machine.execCpl s
  | .scf => Sys2Proof.Machine.execScf s
  | .ccf => Sys2Proof.Machine.execCcf s
  | .ldNnSp nn => Sys2Proof.Machine.execLdNnSp nn s
  | .stop => Sys2Proof.Machine.execStop s
  | .jrE e => Sys2Proof.Machine.execJrE e s
  | .jrCcE cc e => Sys2Proof.Machine.execJrCcE cc e s
  | .addHlRr rr => Sys2Proof.Machine.execAddHlRr rr s
  | .ldABc => Sys2Proof.Machine.execLdABc s
  | .ldADe => Sys2Proof.Machine.execLdADe s
  | .ldAHli => Sys2Proof.Machine.execLdAHli s
  | .ldAHld => Sys2Proof.Machine.execLdAHld s
  | .ldRR r r' => Sys2Proof.Machine.execLdRR r r' s
  | .ldRHl r => Sys2Proof.Machine.execLdRHl r s
  | .ldHlR r => Sys2Proof.Machine.execLdHlR r s
  | .halt => Sys2Proof.Machine.execHalt s
  | .addAR r => Sys2Proof.Machine.execAddAR r s
  | .addAHl => Sys2Proof.Machine.execAddAHl s
  | .adcAR r => Sys2Proof.Machine.execAdcAR r s
  | .adcAHl => Sys2Proof.Machine.execAdcAHl s
  | .subR r => Sys2Proof.Machine.execSubR r s
  | .subHl => Sys2Proof.Machine.execSubHl s
  | .sbcAR r => Sys2Proof.Machine.execSbcAR r s
  | .sbcAHl => Sys2Proof.Machine.execSbcAHl s
  | .andR r => Sys2Proof.Machine.execAndR r s
  | .andHl => Sys2Proof.Machine.execAndHl s
  | .xorR r => Sys2Proof.Machine.execXorR r s
  | .xorHl => Sys2Proof.Machine.execXorHl s
  | .orR r => Sys2Proof.Machine.execOrR r s
  | .orHl => Sys2Proof.Machine.execOrHl s
  | .cpR r => Sys2Proof.Machine.execCpR r s
  | .cpHl => Sys2Proof.Machine.execCpHl s
  | .retCc cc => Sys2Proof.Machine.execRetCc cc s
  | .ldhNA n => Sys2Proof.Machine.execLdhNA n s
  | .addSpE e => Sys2Proof.Machine.execAddSpE e s
  | .ldhAN n => Sys2Proof.Machine.execLdhAN n s
  | .ldHlSpE e => Sys2Proof.Machine.execLdHlSpE e s
  | .popQq qq => Sys2Proof.Machine.execPopQq qq s
  | .ret => Sys2Proof.Machine.execRet s
  | .reti => Sys2Proof.Machine.execReti s
  | .jpHl => Sys2Proof.Machine.execJpHl s
  | .ldSpHl => Sys2Proof.Machine.execLdSpHl s
  | .jpCcNn cc nn => Sys2Proof.Machine.execJpCcNn cc nn s
  | .ldhCA => Sys2Proof.Machine.execLdhCA s
  | .ldNnA nn => Sys2Proof.Machine.execLdNnA nn s
  | .ldhAC => Sys2Proof.Machine.execLdhAC s
  | .ldANn nn => Sys2Proof.Machine.execLdANn nn s
  | .jpNn nn => Sys2Proof.Machine.execJpNn nn s
  | .prefixCb sub => Sys2Proof.Machine.execPrefixCb sub s
  | .di => Sys2Proof.Machine.execDi s
  | .ei => Sys2Proof.Machine.execEi s
  | .callCcNn cc nn => Sys2Proof.Machine.execCallCcNn cc nn s
  | .pushQq qq => Sys2Proof.Machine.execPushQq qq s
  | .callNn nn => Sys2Proof.Machine.execCallNn nn s
  | .addAN n => Sys2Proof.Machine.execAddAN n s
  | .adcAN n => Sys2Proof.Machine.execAdcAN n s
  | .subN n => Sys2Proof.Machine.execSubN n s
  | .sbcAN n => Sys2Proof.Machine.execSbcAN n s
  | .andN n => Sys2Proof.Machine.execAndN n s
  | .xorN n => Sys2Proof.Machine.execXorN n s
  | .orN n => Sys2Proof.Machine.execOrN n s
  | .cpN n => Sys2Proof.Machine.execCpN n s
  | .rstT t => Sys2Proof.Machine.execRstT t s
  | .illegalD3 => Sys2Proof.Machine.execIllegalD3 s
  | .illegalDB => Sys2Proof.Machine.execIllegalDB s
  | .illegalDD => Sys2Proof.Machine.execIllegalDD s
  | .illegalE3 => Sys2Proof.Machine.execIllegalE3 s
  | .illegalE4 => Sys2Proof.Machine.execIllegalE4 s
  | .illegalEB => Sys2Proof.Machine.execIllegalEB s
  | .illegalEC => Sys2Proof.Machine.execIllegalEC s
  | .illegalED => Sys2Proof.Machine.execIllegalED s
  | .illegalF4 => Sys2Proof.Machine.execIllegalF4 s
  | .illegalFC => Sys2Proof.Machine.execIllegalFC s
  | .illegalFD => Sys2Proof.Machine.execIllegalFD s
  | .rlcR r => Sys2Proof.Machine.execRlcR r s
  | .rlcHl => Sys2Proof.Machine.execRlcHl s
  | .rrcR r => Sys2Proof.Machine.execRrcR r s
  | .rrcHl => Sys2Proof.Machine.execRrcHl s
  | .rlR r => Sys2Proof.Machine.execRlR r s
  | .rlHl => Sys2Proof.Machine.execRlHl s
  | .rrR r => Sys2Proof.Machine.execRrR r s
  | .rrHl => Sys2Proof.Machine.execRrHl s
  | .slaR r => Sys2Proof.Machine.execSlaR r s
  | .slaHl => Sys2Proof.Machine.execSlaHl s
  | .sraR r => Sys2Proof.Machine.execSraR r s
  | .sraHl => Sys2Proof.Machine.execSraHl s
  | .swapR r => Sys2Proof.Machine.execSwapR r s
  | .swapHl => Sys2Proof.Machine.execSwapHl s
  | .srlR r => Sys2Proof.Machine.execSrlR r s
  | .srlHl => Sys2Proof.Machine.execSrlHl s
  | .bitBR bn r => Sys2Proof.Machine.execBitBR bn r s
  | .bitBHl bn => Sys2Proof.Machine.execBitBHl bn s
  | .resBR bn r => Sys2Proof.Machine.execResBR bn r s
  | .resBHl bn => Sys2Proof.Machine.execResBHl bn s
  | .setBR bn r => Sys2Proof.Machine.execSetBR bn r s
  | .setBHl bn => Sys2Proof.Machine.execSetBHl bn s

end Sys2Proof.Machine
end

