-- ==== Sys2Proof/Machine/Place.lean ====
section
/-!
DEFINITION. Placing bytes where a step fetches them. The host loads the ROM image and may load any memory before a run; a placed byte
stands for such a load (log 3). This is no move of the machine: no step does it.
-/

namespace Sys2Proof.Machine

/-- The state with the byte that bus address `a` shows replaced in the array behind it; an address with no array behind it is
left alone. -/
def placeByte (a : Word) (v : Byte) (s : State) : State :=
  match busOwner s.colorMode a with
  | .rom n => { s with mem := { s.mem with rom := setByte s.mem.rom (romIndex s.cart n) v } }
  | .vram off => setVram (vramBank s) off v s
  | .cartRam off =>
    match ramAccess s.cart off with
    | .cell k => setCartRam k v s
    | .closed => s
    | .unmodelled => s
  | .wramFixed off => setWram off v s
  | .wramBanked off => setWram (4096 * wramBank s + off) v s
  | .oam off => setOam off v s
  | .io _ => s
  | .hram off => setHram off v s
  | .ie => { s with irq := { s.irq with ie := v } }
  | .nobody => s

/-- The bytes placed at `a`, `a + 1`, ... -/
def placeBytes (a : Word) : List Byte → State → State
  | [], s => s
  | v :: rest, s => placeBytes (a + 1#16) rest (placeByte a v s)

/-- What keeps the next step from fetching an instruction taken away: a fault, the halt state, host moves, a `HALT` still to be run,
and, where an enabled interrupt is pending, `IME`. -/
def readyToFetch (s : State) : State :=
  { s with
    fault := none,
    hostQueue := [],
    haltAgain := false,
    cpu := { s.cpu with halted := false, ime := s.cpu.ime && pendingInterrupts s == 0#5 } }

/-- The three bytes of the word `w` of `nbits` bits (the longest instruction has three, R160) placed at `PC`. -/
def placeWord (nbits w : Nat) (s : State) : State :=
  let v := w % 2 ^ nbits
  placeBytes s.cpu.pc [BitVec.ofNat 8 v, BitVec.ofNat 8 (v / 256), BitVec.ofNat 8 (v / 65536)] (readyToFetch s)

end Sys2Proof.Machine
end

