-- ==== Sys2Proof/Machine/Step.lean ====
section
/-!
DEFINITION. One step of the machine (60_exceptions.md R400, R401) and the placing of a word where the next instruction is fetched.
-/

namespace Sys2Proof.Machine

/-- One step. A faulted machine has none (R401). A `HALT` that `HALT`'s refetch has read is run first of all: that is the rest of the
spec's step before, between whose parts no host move and no interrupt comes (R352, log 7). Otherwise the host moves that stand before
this step are made (R12, log 8), the interrupts are examined, and the step is a dispatch, a halted tick, or one whole instruction
(R400). -/
def step (s : State) : Host.Outcome State Fault Refusal :=
  match s.fault with
  | some f => .fault f
  | none =>
    if s.haltAgain then exec .halt (s.setHaltAgain false)
    else
      match stepPlan (hostMoves s) with
      | .over t => .next t
      | .run i t => exec i t

/-- `s` with the instruction word `w` of `nbits` bits where `step` fetches its next instruction (log 3). -/
def State.withFetchWord (s : State) (nbits w : Nat) : State := placeWord nbits w s

end Sys2Proof.Machine
end

