-- ==== Sys2Proof/Machine/PowerUp.lean ====
section
/-!
DEFINITION. Power-up (70_reset_and_hazards.md R560, R561) for every ROM image, save image, `RESET` record (10_state.md R48),
`INITIAL_MEMORY` (R565) and choice of the parameters: the header of the image (21_cartridge_mapper.md R130 to R134) fixes the machine.
`State.reset` is its answer for the DMG image of log 3.
-/

namespace Sys2Proof.Machine

/-- A file: its bytes, in the form of a memory array, and its length. -/
structure Image where
  cells : List Host.Cell
  size : Nat
deriving DecidableEq, Repr

/-- The contents that power-up takes from outside (R565). -/
structure InitialMemory where
  wram : List Host.Cell
  vram : List Host.Cell
  oam : List Host.Cell
  hram : List Host.Cell
  bgCram : List Host.Cell
  objCram : List Host.Cell
  audio : List Host.Cell
  fb : List (Nat × Pixel)
deriving DecidableEq, Repr

/-- One column of the `RESET` record (R48). -/
structure ResetColumn where
  cpu : Cpu
  irq : Irq
  timer : Timer
  serial : Serial
  joypad : Joypad
  ppu : Ppu
  colour : Colour
deriving DecidableEq, Repr

/-- Every array at what an unlisted byte reads as (log 1). -/
def initialMemoryBlank : InitialMemory where
  wram := []
  vram := []
  oam := []
  hram := []
  bgCram := []
  objCram := []
  audio := []
  fb := []

/-- The recommended DMG column of R48 (log 14). -/
def resetColumnDmg : ResetColumn where
  cpu := State.reset.cpu
  irq := State.reset.irq
  timer := State.reset.timer
  serial := State.reset.serial
  joypad := State.reset.joypad
  ppu := State.reset.ppu
  colour := State.reset.colour

/-- The recommended Colour column of R48 (log 14), where it differs from the DMG column. -/
def resetColumnColour : ResetColumn where
  cpu := {
    State.reset.cpu with
    a := 0x11#8, flags := ⟨true, false, false, false⟩, b := 0x00#8, c := 0x00#8, d := 0xFF#8, e := 0x56#8, h := 0x00#8, l := 0x0D#8 }
  irq := State.reset.irq
  timer := { State.reset.timer with div := 0x00#8 }
  serial := { State.reset.serial with sc := 0x7F#8 }
  joypad := State.reset.joypad
  ppu := { State.reset.ppu with dma := 0x00#8 }
  colour := State.reset.colour

/-- The `RESET` record with the recommended values: its column for a colour mode. -/
def resetRecommended (colorMode : Bool) : ResetColumn := if colorMode then resetColumnColour else resetColumnDmg

/-! ### The header (R130 to R133) -/

/-- Byte `k` of an image; `none` past its end. -/
def imageByte (im : Image) (k : Nat) : Option Byte := if k < im.size then some (byteAt im.cells k) else none

/-- `COLOR_MODE` (R6, R130): bit 7 of byte 0x143. -/
def imageColorMode (im : Image) : Bool :=
  match imageByte im 0x143 with
  | some v => v.getLsbD 7
  | none => false

/-- The mapper that byte 0x147 selects (R131); `none` for an unsupported one. -/
def mapperOfByte (t : Byte) : Option MapperKind :=
  if t = 0x00#8 then some .none
  else if t = 0x01#8 ∨ t = 0x02#8 ∨ t = 0x03#8 then some .typeA
  else if t = 0x10#8 ∨ t = 0x13#8 ∨ t = 0x1B#8 then some .typeB
  else none

/-- `ROM_BANKS` of class byte 0x148 (R132, R9); `none` above 6. -/
def romBanksOfByte (cfg : Config) (k : Byte) : Option Nat := cfg.romBanks[k.toNat]?

/-- `RAM_SIZE_BYTES` of class byte 0x149 (R133, R9); `none` above 5. -/
def ramSizeOfByte (cfg : Config) (c : Byte) : Option Nat := cfg.ramSizeBytes[c.toNat]?

/-- What the header fixes. -/
structure HeaderInfo where
  kind : MapperKind
  romBanks : Nat
  ramSize : Nat
deriving DecidableEq, Repr

/-- The header, or the first configuration fault (R561): bytes 0x147, 0x148 and 0x149 in that order, then the image's length. An image
that is too short is `BadRomImage` with its class byte 0x148 (R132), or with its length where it ends before that byte (log 12). -/
def readHeader (im : Image) (cfg : Config) : Except Fault HeaderInfo :=
  match imageByte im 0x147 with
  | none => .error (.badRomImage im.size)
  | some t =>
    match mapperOfByte t with
    | none => .error (.unsupportedMapper t)
    | some kind =>
      match imageByte im 0x148 with
      | none => .error (.badRomImage im.size)
      | some k =>
        match romBanksOfByte cfg k with
        | none => .error (.badRomImage k.toNat)
        | some banks =>
          match imageByte im 0x149 with
          | none => .error (.badRomImage k.toNat)
          | some c =>
            match ramSizeOfByte cfg c with
            | none => .error (.badRomImage c.toNat)
            | some ram =>
              if im.size < 0x150 ∨ im.size < 16384 * banks then .error (.badRomImage k.toNat)
              else .ok { kind := kind, romBanks := banks, ramSize := ram }

/-! ### The machine -/

/-- The machine with the registers of a `RESET` column, memory as given, and a cartridge and fault record. -/
def assembleState (col : ResetColumn) (init : InitialMemory) (cfg : Config) (colorMode : Bool) (cart : Cart) (rom cartRam : List Host.Cell)
    (fault : Option Fault) : State where
  cpu := col.cpu
  irq := col.irq
  timer := col.timer
  serial := col.serial
  joypad := col.joypad
  ppu := col.ppu
  colour := col.colour
  cart := cart
  mem := {
    rom := rom, wram := init.wram, vram := init.vram, oam := init.oam, hram := init.hram, cartRam := cartRam,
    bgCram := init.bgCram, objCram := init.objCram, audio := init.audio }
  fb := init.fb
  fault := fault
  colorMode := colorMode
  cfg := cfg
  frameCount := 0
  lastFrame := none
  hostQueue := []
  haltAgain := false
  freeCount := 0

/-- The cartridge at power-up (R46, R560): the header's three values, and the mapper's registers. -/
def cartAtPowerUp (romSize : Nat) (h : HeaderInfo) : Cart where
  kind := h.kind
  romSize := romSize
  romBanks := h.romBanks
  ramSize := h.ramSize
  ramEnable := false
  romBankReg := 1#7
  ramBankReg := 0#4
  bankMode := false

/-- Power-up (R560). A configuration fault gives a machine whose `FAULT` is set (R561). A save image whose length is not the RAM's
size is outside the spec (R134) and refused (log 13). -/
def powerUp (rom : Image) (save : Option Image) (resets : Bool → ResetColumn) (init : InitialMemory) (cfg : Config) :
    Host.Outcome State Fault Refusal :=
  let colour := imageColorMode rom
  match readHeader rom cfg with
  | .error f =>
    .next (assembleState (resets colour) init cfg colour (cartAtPowerUp rom.size ⟨.none, 2, 0⟩) rom.cells [] (some f))
  | .ok h =>
    match save with
    | none => .next (assembleState (resets colour) init cfg colour (cartAtPowerUp rom.size h) rom.cells [] none)
    | some im =>
      if im.size = h.ramSize then
        .next (assembleState (resets colour) init cfg colour (cartAtPowerUp rom.size h) rom.cells im.cells none)
      else .refused .saveLengthMismatch

end Sys2Proof.Machine
end

