-- ==== Sys2Proof/Safety.lean ====
section
/-!
DEFINITION. What counts as a safe run, and the words that statements about the machine use: which addresses can be read and stored to,
where a stored byte lands, what a tick, a read and a store leave unchanged, and the invariants of the machine.
-/

namespace Sys2Proof.Machine

/-! ### Safe runs -/

/-- A machine that is not faulted (R40). -/
def running (s : State) : Bool := s.fault.isNone

/-- A step that ends in a machine that is not faulted. -/
def safeOutcome (o : Host.Outcome State Fault Refusal) : Bool :=
  match o with
  | .next s => running s
  | .fault _ => false
  | .refused _ => false

/-- No paced VRAM DMA is armed, so a tick reads no bus (R543) and raises nothing. -/
def quiet (s : State) : Bool := !(s.colorMode && s.colour.hdmaActive)

/-! ### Addresses -/

/-- A register of the I/O page: its value is a device's, and a tick may change it. -/
def deviceRegister (colour : Bool) (a : Word) : Bool :=
  match busOwner colour a with
  | .io _ => true
  | _ => false

/-- A read of `a` raises nothing (R71, R80, R143). -/
def readable (s : State) (a : Word) : Bool :=
  match busRead s a with
  | .byte _ => true
  | .fault _ => false

/-- A store to `a` raises nothing and starts no DMA: every address but the unowned ones (R80), the cartridge RAM window of an
unmodelled bank (R143), and the two registers whose write is a transfer (R110, R541). -/
def storable (s : State) (a : Word) : Bool :=
  match busOwner s.colorMode a with
  | .nobody => false
  | .io .dma => false
  | .io .hdma5 => false
  | .cartRam off => ramAccess s.cart off != .unmodelled
  | _ => true

/-- The fault that an access to `a` raises (R80, R143); `none` where it raises none. The write of a DMA register has further ones (R111). -/
def trapAt (s : State) (a : Word) (kind : AccessKind) : Option Fault :=
  match busOwner s.colorMode a with
  | .nobody => some (.unmappedAccess a kind)
  | .cartRam _ =>
    if s.cart.kind = .typeB ∧ s.cart.ramEnable = true ∧ s.cart.ramSize ≠ 0 ∧ s.cart.ramBankReg.toNat > 3 then
      some (.unmodelledMapperFeature a s.cart.ramBankReg)
    else none
  | _ => none

/-- A byte that a store can change: of a memory array, or `IE`. -/
inductive MemPlace where
  | vram (k : Nat)
  | cartRam (k : Nat)
  | wram (k : Nat)
  | oam (k : Nat)
  | hram (k : Nat)
  | ie
deriving DecidableEq, Repr

/-- The byte that a store to `a` changes; `none` where a store changes no byte of memory. -/
def placeOf (s : State) (a : Word) : Option MemPlace :=
  match busOwner s.colorMode a with
  | .vram off => some (.vram (8192 * vramBank s + off))
  | .cartRam off =>
    match ramAccess s.cart off with
    | .cell k => some (.cartRam k)
    | .closed => none
    | .unmodelled => none
  | .wramFixed off => some (.wram off)
  | .wramBanked off => some (.wram (4096 * wramBank s + off))
  | .oam off => some (.oam off)
  | .hram off => some (.hram off)
  | .ie => some .ie
  | .rom _ => none
  | .io _ => none
  | .nobody => none

/-! ### Frames -/

/-- Everything outside the CPU and memory that no clock drives is as before: mapper, joypad, the Colour registers and the VRAM DMA,
the registers of timer, serial port and PPU that only a write changes, the fault record, the parameters and the host's moves. -/
structure SpecialsKept (s u : State) : Prop where
  cart : u.cart = s.cart
  joypad : u.joypad = s.joypad
  colour : u.colour = s.colour
  timer : u.timer.tma = s.timer.tma ∧ u.timer.tac = s.timer.tac
  serial : u.serial.sb = s.serial.sb ∧ u.serial.sc = s.serial.sc
  ppuControl : u.ppu.lcdc = s.ppu.lcdc ∧ u.ppu.stat = s.ppu.stat ∧ u.ppu.lyc = s.ppu.lyc ∧ u.ppu.dma = s.ppu.dma
  ppuScroll : u.ppu.scy = s.ppu.scy ∧ u.ppu.scx = s.ppu.scx ∧ u.ppu.wy = s.ppu.wy ∧ u.ppu.wx = s.ppu.wx
  ppuPalettes : u.ppu.bgp = s.ppu.bgp ∧ u.ppu.obp0 = s.ppu.obp0 ∧ u.ppu.obp1 = s.ppu.obp1
  fault : u.fault = s.fault
  colorMode : u.colorMode = s.colorMode
  cfg : u.cfg = s.cfg
  hostQueue : u.hostQueue = s.hostQueue
  haltAgain : u.haltAgain = s.haltAgain

/-- From `s` to `u` only the clock-driven devices moved: no CPU register, no byte of memory, not `IE`, no special register. -/
structure DeviceOnly (s u : State) : Prop where
  cpu : u.cpu = s.cpu
  mem : u.mem = s.mem
  ie : u.irq.ie = s.irq.ie
  memory : ∀ b : Word, deviceRegister s.colorMode b = false → busRead u b = busRead s b
  specials : SpecialsKept s u

/-- A read of `a` with its tick (R15): it gives `v`, only the devices move, and `v` is what `a` showed before, unless `a` is a device's
register, whose value is the one at the moment of the access. -/
structure ReadsByte (a : Word) (s : State) (v : Byte) (u : State) : Prop where
  run : memRead a s = .ok v u
  device : DeviceOnly s u
  shown : deviceRegister s.colorMode a = false → busRead s a = .byte v

/-- Between `s` and `u` no byte of memory changed but those at the listed places, which hold the listed bytes: an address that shows
a listed place shows its byte, and every other address that is no device's register reads as before. -/
def MemoryAfter (stores : List (MemPlace × Byte)) (s u : State) : Prop :=
  ∀ b : Word, deviceRegister s.colorMode b = false →
    busRead u b =
      match (placeOf s b).bind fun p => stores.lookup p with
      | some v => .byte v
      | none => busRead s b

/-- A store of `v` to `a` with its tick (R15). Where the address shows a byte of memory, that byte and no other changes, and no
special register; where it shows none, no byte of the ROM and of the five memories that addresses show changes. -/
structure StoresByte (a : Word) (v : Byte) (s u : State) : Prop where
  run : memWrite a v s = .ok () u
  cpu : u.cpu = s.cpu
  fault : u.fault = s.fault
  place : ∀ p, placeOf s a = some p →
    MemoryAfter [(p, v)] s u ∧ SpecialsKept s u ∧ (p ≠ .ie → u.irq.ie = s.irq.ie)
  noPlace : placeOf s a = none →
    u.irq.ie = s.irq.ie ∧ u.mem.rom = s.mem.rom ∧ u.mem.vram = s.mem.vram ∧ u.mem.cartRam = s.mem.cartRam ∧
      u.mem.wram = s.mem.wram ∧ u.mem.oam = s.mem.oam ∧ u.mem.hram = s.mem.hram

/-- A store of a 16-bit value at `a` and `a + 1` (R15, R81): the low byte first. Where both addresses show bytes of memory, those
two and no other change. -/
structure StoresWord (a v : Word) (s u : State) : Prop where
  run : memWrite16 a v s = .ok () u
  cpu : u.cpu = s.cpu
  fault : u.fault = s.fault
  place : ∀ p q, placeOf s a = some p → placeOf s (a + 1#16) = some q →
    MemoryAfter [(q, highByte v), (p, lowByte v)] s u ∧ SpecialsKept s u ∧ (p ≠ .ie → q ≠ .ie → u.irq.ie = s.irq.ie)

/-- A push of `v` (R15): `SP` falls by 2, the high byte goes to the old `SP - 1` and the low byte to the old `SP - 2`. -/
structure PushesWord (v : Word) (s u : State) : Prop where
  run : push16 v s = .ok () u
  cpu : u.cpu = { s.cpu with sp := s.cpu.sp - 2#16 }
  fault : u.fault = s.fault
  place : ∀ p q, placeOf s (s.cpu.sp - 1#16) = some p → placeOf s (s.cpu.sp - 2#16) = some q →
    MemoryAfter [(q, lowByte v), (p, highByte v)] s u ∧ SpecialsKept s u ∧ (p ≠ .ie → q ≠ .ie → u.irq.ie = s.irq.ie)

/-- A pop (R15): the low byte from the old `SP`, the high byte from `SP + 1`, and `SP` rises by 2. -/
structure PopsWord (s : State) (v : Word) (u : State) : Prop where
  run : pop16 s = .ok v u
  cpu : u.cpu = { s.cpu with sp := s.cpu.sp + 2#16 }
  mem : u.mem = s.mem
  ie : u.irq.ie = s.irq.ie
  memory : ∀ b : Word, deviceRegister s.colorMode b = false → busRead u b = busRead s b
  specials : SpecialsKept s u
  low : deviceRegister s.colorMode s.cpu.sp = false → busRead s s.cpu.sp = .byte (lowByte v)
  high : deviceRegister s.colorMode (s.cpu.sp + 1#16) = false → busRead s (s.cpu.sp + 1#16) = .byte (highByte v)

/-- A tick, or an instruction's internal tick (R16, R440), in a machine with no paced VRAM DMA. -/
structure Ticks (s u : State) : Prop where
  run : tick s = .ok () u
  device : DeviceOnly s u

/-- From `s` to `t` one 8-bit register took a value and the flags became `f`: no other register, no byte of memory, nothing else. -/
structure WritesReg8 (r : Reg8) (v : Byte) (f : Flags) (s t : State) : Prop where
  value : t.cpu.get8 r = v
  flags : t.cpu.flags = f
  others : ∀ q : Reg8, q ≠ r → t.cpu.get8 q = s.cpu.get8 q
  control : t.cpu.sp = s.cpu.sp ∧ t.cpu.pc = s.cpu.pc ∧ t.cpu.ime = s.cpu.ime ∧ t.cpu.halted = s.cpu.halted
  memory : ∀ b : Word, busRead t b = busRead s b
  rest : t = { s with cpu := t.cpu }

/-- From `s` to `t` one pair (or `SP`) took a value and the flags became `f`: nothing else. -/
structure WritesReg16 (rr : Reg16) (v : Word) (f : Flags) (s t : State) : Prop where
  value : t.cpu.get16 rr = v
  flags : t.cpu.flags = f
  others : ∀ q : Reg16, q ≠ rr → t.cpu.get16 q = s.cpu.get16 q
  control : t.cpu.a = s.cpu.a ∧ t.cpu.pc = s.cpu.pc ∧ t.cpu.ime = s.cpu.ime ∧ t.cpu.halted = s.cpu.halted
  memory : ∀ b : Word, busRead t b = busRead s b
  rest : t = { s with cpu := t.cpu }

/-! ### The forms of instructions that one statement covers -/

/-- The loads of one register from memory, with the register and the address (R203, R206, R207, R210, R212, R214). -/
def loadForm (i : Instr) (s : State) : Option (Reg8 × Word) :=
  match i with
  | .ldRHl r => some (r, s.cpu.hl)
  | .ldABc => some (.a, s.cpu.bc)
  | .ldADe => some (.a, s.cpu.de)
  | .ldANn nn => some (.a, nn)
  | .ldhAC => some (.a, 0xFF00#16 + s.cpu.c.setWidth 16)
  | .ldhAN n => some (.a, 0xFF00#16 + n.setWidth 16)
  | _ => none

/-- The stores of one byte, with the address and the byte (R204, R205, R208, R209, R211, R213, R215). -/
def storeForm (i : Instr) (s : State) : Option (Word × Byte) :=
  match i with
  | .ldHlR r => some (s.cpu.hl, s.cpu.get8 r)
  | .ldHlN n => some (s.cpu.hl, n)
  | .ldBcA => some (s.cpu.bc, s.cpu.a)
  | .ldDeA => some (s.cpu.de, s.cpu.a)
  | .ldNnA nn => some (nn, s.cpu.a)
  | .ldhCA => some (0xFF00#16 + s.cpu.c.setWidth 16, s.cpu.a)
  | .ldhNA n => some (0xFF00#16 + n.setWidth 16, s.cpu.a)
  | _ => none

/-- `ADD` and `ADC` (R250): `A + b + cin`, with the carries out of bits 3 and 7. -/
def afterAdd (s : State) (b : Byte) (cin : Bool) : State :=
  let res := s.cpu.a + b + BitVec.ofNat 8 cin.toNat
  { s with
    cpu := {
      s.cpu with
      a := res,
      flags := {
        z := res == 0x00#8, n := false, h := decide (s.cpu.a.toNat % 16 + b.toNat % 16 + cin.toNat > 15),
        c := decide (s.cpu.a.toNat + b.toNat + cin.toNat > 255) } } }

/-- The flags of `SUB`, `SBC` and `CP` (R250): the borrows into bits 3 and 7. -/
def subtractFlags (a b : Byte) (cin : Bool) : Flags :=
  { z := a - b - BitVec.ofNat 8 cin.toNat == 0x00#8, n := true, h := decide (a.toNat % 16 < b.toNat % 16 + cin.toNat),
    c := decide (a.toNat < b.toNat + cin.toNat) }

/-- `SUB` and `SBC` (R250). -/
def afterSub (s : State) (b : Byte) (cin : Bool) : State :=
  { s with
    cpu := { s.cpu with a := s.cpu.a - b - BitVec.ofNat 8 cin.toNat, flags := subtractFlags s.cpu.a b cin } }

/-- `CP` (R272): the flags of `SUB`, and `A` as it was. -/
def afterCompare (s : State) (b : Byte) : State := { s with cpu := { s.cpu with flags := subtractFlags s.cpu.a b false } }

/-- `AND`, `XOR`, `OR` (R263, R266, R269): the result, and `fH` as given. -/
def afterLogic (s : State) (res : Byte) (h : Bool) : State :=
  { s with cpu := { s.cpu with a := res, flags := { z := res == 0x00#8, n := false, h := h, c := false } } }

/-- The eight one-bit rotates and shifts by the number of R300, in the arithmetic of bytes: the result and the bit shifted out. -/
def rotated (y : Fin 8) (cin : Bool) (v : Byte) : Byte × Bool :=
  match y with
  | 0 => (v.rotateLeft 1, v.msb)
  | 1 => (v.rotateRight 1, v.getLsbD 0)
  | 2 => (v <<< 1 ||| BitVec.ofNat 8 cin.toNat, v.msb)
  | 3 => (v >>> 1 ||| (BitVec.ofNat 8 cin.toNat <<< 7), v.getLsbD 0)
  | 4 => (v <<< 1, v.msb)
  | 5 => (v.sshiftRight 1, v.getLsbD 0)
  | 6 => (v <<< 4 ||| v >>> 4, false)
  | 7 => (v >>> 1, v.getLsbD 0)

/-- A rotate or shift with its flags (R300). -/
def rotatedWithFlags (y : Fin 8) (f : Flags) (v : Byte) : Byte × Flags :=
  ((rotated y f.c v).1, { z := (rotated y f.c v).1 == 0x00#8, n := false, h := false, c := (rotated y f.c v).2 })

/-- The rotates and shifts of a register by their number (R305 to R319). -/
def shiftRegForm (y : Fin 8) (r : Reg8) : Instr :=
  match y with
  | 0 => .rlcR r
  | 1 => .rrcR r
  | 2 => .rlR r
  | 3 => .rrR r
  | 4 => .slaR r
  | 5 => .sraR r
  | 6 => .swapR r
  | 7 => .srlR r

/-- The instructions that read the byte at `HL`, change it and write it back (R276, R278, R306 to R320, R324, R326): the new byte and
the new flags from the old flags and byte. -/
def modifyForm (i : Instr) : Option (Flags → Byte → Byte × Flags) :=
  match i with
  | .incHl => some fun f v => (v + 1#8, { f with z := v + 1#8 == 0x00#8, n := false, h := decide (v.toNat % 16 = 15) })
  | .decHl => some fun f v => (v - 1#8, { f with z := v - 1#8 == 0x00#8, n := true, h := decide (v.toNat % 16 = 0) })
  | .rlcHl => some (rotatedWithFlags 0)
  | .rrcHl => some (rotatedWithFlags 1)
  | .rlHl => some (rotatedWithFlags 2)
  | .rrHl => some (rotatedWithFlags 3)
  | .slaHl => some (rotatedWithFlags 4)
  | .sraHl => some (rotatedWithFlags 5)
  | .swapHl => some (rotatedWithFlags 6)
  | .srlHl => some (rotatedWithFlags 7)
  | .resBHl bn => some fun f v => (v &&& ~~~BitVec.twoPow 8 bn.val, f)
  | .setBHl bn => some fun f v => (v ||| BitVec.twoPow 8 bn.val, f)
  | _ => none

/-- The opcode byte of an illegal opcode (R171). -/
def illegalByte (i : Instr) : Option Byte :=
  match i with
  | .illegalD3 => some 0xD3#8
  | .illegalDB => some 0xDB#8
  | .illegalDD => some 0xDD#8
  | .illegalE3 => some 0xE3#8
  | .illegalE4 => some 0xE4#8
  | .illegalEB => some 0xEB#8
  | .illegalEC => some 0xEC#8
  | .illegalED => some 0xED#8
  | .illegalF4 => some 0xF4#8
  | .illegalFC => some 0xFC#8
  | .illegalFD => some 0xFD#8
  | _ => none

/-- The instructions that write `PC` beyond their own fetch (R26); `HALT` runs another instruction under `refetch` (R352). -/
def movesPc (i : Instr) : Bool :=
  match i with
  | .jpNn _ => true
  | .jpCcNn _ _ => true
  | .jpHl => true
  | .jrE _ => true
  | .jrCcE _ _ => true
  | .callNn _ => true
  | .callCcNn _ _ => true
  | .rstT _ => true
  | .ret => true
  | .retCc _ => true
  | .reti => true
  | .halt => true
  | _ => false

/-- The instructions that write `SP` (R25); `HALT` runs another instruction under `refetch` (R352). -/
def movesSp (i : Instr) : Bool :=
  match i with
  | .ldRrNn rr _ => rr == .sp
  | .incRr rr => rr == .sp
  | .decRr rr => rr == .sp
  | .ldSpHl => true
  | .addSpE _ => true
  | .pushQq _ => true
  | .popQq _ => true
  | .callNn _ => true
  | .callCcNn _ _ => true
  | .rstT _ => true
  | .ret => true
  | .retCc _ => true
  | .reti => true
  | .halt => true
  | _ => false

/-- The instructions that write no flag (R27): loads, pushes, pops but of `AF`, jumps, calls, returns, `INC rr`, `DEC rr`, `RES`, `SET`,
and the system instructions but for `HALT`, which runs another instruction under `refetch` (R352). -/
def keepsFlags (i : Instr) : Bool :=
  match i with
  | .nop | .ldRrNn _ _ | .ldBcA | .ldDeA | .ldHliA | .ldHldA | .incRr _ | .decRr _ | .ldRN _ _ | .ldHlN _ | .ldNnSp _ | .stop => true
  | .jrE _ | .jrCcE _ _ | .ldABc | .ldADe | .ldAHli | .ldAHld | .ldRR _ _ | .ldRHl _ | .ldHlR _ | .retCc _ | .ldhNA _ => true
  | .ldhAN _ | .ret | .reti | .jpHl | .ldSpHl | .jpCcNn _ _ | .ldhCA | .ldNnA _ | .ldhAC | .ldANn _ | .jpNn _ | .di | .ei => true
  | .callCcNn _ _ | .pushQq _ | .callNn _ | .rstT _ | .resBR _ _ | .resBHl _ | .setBR _ _ | .setBHl _ => true
  | .popQq qq => qq != .af
  | _ => (illegalByte i).isSome

/-- The two decimal digits of a number below 100 as a byte. -/
def bcd (x : Nat) : Byte := BitVec.ofNat 8 (16 * (x / 10) + x % 10)

/-! ### Invariants -/

/-- Every array is in its canonical form: the memories, the frame buffer and the last frame handed over. -/
def memoryCanonical (s : State) : Bool :=
  Memory.wf s.mem && cellsWf unlistedPixel s.fb &&
    match s.lastFrame with
    | none => true
    | some frame => cellsWf unlistedPixel frame

/-- Every entry of an array lies below `bound`. -/
def cellsBelow {α : Type} (bound : Nat) (l : List (Nat × α)) : Bool := l.all fun e => decide (e.1 < bound)

/-- The memories that a program can store to have the sizes of R44, R43, R36 and R42; cartridge RAM has the header's. -/
def arraysInRange (s : State) : Bool :=
  cellsBelow 32768 s.mem.wram && cellsBelow 16384 s.mem.vram && cellsBelow 160 s.mem.oam && cellsBelow 127 s.mem.hram &&
    cellsBelow s.cart.ramSize s.mem.cartRam && cellsBelow 64 s.mem.bgCram && cellsBelow 64 s.mem.objCram &&
    cellsBelow 48 s.mem.audio && cellsBelow 23040 s.fb

/-- The mapper's registers hold only values that R140, R142 and R146 let them hold. -/
def mapperInRange (c : Cart) : Bool :=
  c.romBankReg != 0#7 && (c.kind != .typeA || (decide (c.romBankReg.toNat < 32) && decide (c.ramBankReg.toNat < 4)))

/-- The mode that R490 gives a position of the PPU while it is on; in draw mode also the pixel position and the penalty left. -/
def ppuModeFits (cfg : Config) (p : Ppu) : Bool :=
  if p.ly.toNat < 144 then
    if p.dot < 80 then p.mode == .oamScan
    else if p.dot < 240 + cfg.drawPenaltyDots then
      p.mode == .draw && decide (p.lx = min (p.dot - 80) 160) && decide (p.drawWait = cfg.drawPenaltyDots - (p.dot - 240))
    else p.mode == .hBlank
  else p.mode == .vBlank

/-- The PPU's position (R490, R486): on, a dot of a line of the frame with the mode of that position; off, line 0, dot 0, h-blank. -/
def ppuInPlace (s : State) : Bool :=
  if lcdcBit s 7 then decide (s.ppu.ly.toNat < 154) && decide (s.ppu.dot < 456) && ppuModeFits s.cfg s.ppu
  else s.ppu.ly == 0x00#8 && decide (s.ppu.dot = 0) && s.ppu.mode == .hBlank

/-- A paced VRAM DMA has 1 to 128 blocks left; one that is not armed has at most 128 (R43, R541). -/
def hdmaInRange (c : Colour) : Bool := decide (c.hdmaLeft ≤ 128) && (!c.hdmaActive || decide (c.hdmaLeft ≠ 0))

/-- A `HALT` is left to the next step only where R352 refetches: the parameter asks for it, `IME` is clear, the machine is not halted, and
an interrupt is pending. -/
def haltInPlace (s : State) : Bool :=
  !s.haltAgain ||
    (s.cfg.haltPendingIme0 == .refetch && !s.cpu.ime && !s.cpu.halted && pendingInterrupts s != 0#5)

end Sys2Proof.Machine
end

