-- ==== Sys2Proof/Certificates/Slice0/Obligations.lean ====
section
/-!
DEFINITION. The statements for the provers. Each docstring names the rules of spec/ it rests on. The words they use are defined in
Safety.lean; `exec` starts where the bytes of the instruction have been fetched, so `PC` is the address of the next one (log 5), and
`step` adds the fetch (`Obligations.StepRunsDecodedInstruction`).
-/

open Sys2Proof Sys2Proof.Machine

/-! ### Encoding -/

/-- Decoding the bytes of a well-formed instruction gives it back, whatever follows (R160 to R170). The prefix byte is no instruction of
its own (R173): its bytes decode to the instruction that the byte after it selects. -/
def Obligations.DecodeOfEncode : Prop :=
  (∀ (i : Instr) (rest : List Byte), i.WellFormed = true → (∀ sub, i ≠ .prefixCb sub) → decode (encode i ++ rest) = .instr i rest) ∧
    ∀ (sub : Byte) (rest : List Byte), decode (encode (.prefixCb sub) ++ rest) = .instr (decodeCb sub) rest

/-- Every decoding is of a well-formed instruction whose bytes are the ones read: no two words mean the same instruction (R169, R170). -/
def Obligations.EncodeOfDecode : Prop :=
  ∀ (bytes : List Byte) (i : Instr) (rest : List Byte),
    decode bytes = .instr i rest → i.WellFormed = true ∧ encode i ++ rest = bytes

/-- Words written out from the encodings of the spec (R164 to R170), at least one for each family. -/
def Obligations.WordsDecode : Prop :=
  decode [0x78#8] = .instr (.ldRR .a .b) [] ∧
    decode [0x3E#8, 0x42#8] = .instr (.ldRN .a 0x42#8) [] ∧
    decode [0x21#8, 0x34#8, 0x12#8] = .instr (.ldRrNn .hl 0x1234#16) [] ∧
    decode [0xF5#8] = .instr (.pushQq .af) [] ∧
    decode [0x96#8] = .instr .subHl [] ∧
    decode [0xDE#8, 0x01#8] = .instr (.sbcAN 0x01#8) [] ∧
    decode [0x39#8] = .instr (.addHlRr .sp) [] ∧
    decode [0xCB#8, 0x37#8] = .instr (.swapR .a) [] ∧
    decode [0xCB#8, 0x7E#8] = .instr (.bitBHl 7) [] ∧
    decode [0xCB#8, 0xCB#8] = .instr (.setBR 1 .e) [] ∧
    decode [0x38#8, 0xFC#8] = .instr (.jrCcE .c 0xFC#8) [] ∧
    decode [0xC4#8, 0x00#8, 0x02#8] = .instr (.callCcNn .nz 0x0200#16) [] ∧
    decode [0xEF#8] = .instr (.rstT 0x28#8) [] ∧
    decode [0x76#8] = .instr .halt [] ∧
    decode [0xFC#8] = .instr .illegalFC []

/-- Exactly eleven opcode bytes decode to an illegal opcode (R171), each to its own, whatever bytes follow. -/
def Obligations.IllegalOpcodesExactly : Prop :=
  ∀ op lo hi : Byte,
    illegalByte (decodeInstr op lo hi) =
      if op ∈ [0xD3#8, 0xDB#8, 0xDD#8, 0xE3#8, 0xE4#8, 0xEB#8, 0xEC#8, 0xED#8, 0xF4#8, 0xFC#8, 0xFD#8] then some op else none

/-- The prefix byte runs the instruction that the byte after it selects (R357); with the byte at `HL` free to be stored to and no paced
VRAM DMA armed it completes, and no fault is raised. -/
def Obligations.PrefixRunsSelected : Prop :=
  ∀ (sub : Byte) (s : State),
    exec (.prefixCb sub) s = exec (decodeCb sub) s ∧
      (quiet s = true → storable s s.cpu.hl = true →
        ∃ t, exec (.prefixCb sub) s = .next t ∧ t.fault = s.fault ∧ t.cpu.pc = s.cpu.pc)

/-! ### The step -/

/-- A step of a machine that is neither faulted nor halted, with no interrupt to take, runs the instruction that the bytes at `PC`
decode to: one tick for each of its bytes, `PC` after them, and then the instruction (R26, R400, R408). The host's moves that stand
before the step come first (R12). No `HALT` is still to be run from the step before (log 7; `Obligations.Halt` says what then happens). -/
def Obligations.StepRunsDecodedInstruction : Prop :=
  ∀ (s : State) (op : Byte) (tail : List Byte) (i : Instr) (rest : List Byte),
    s.fault = none → s.haltAgain = false → (hostMoves s).cpu.halted = false →
    (pendingInterrupts (hostMoves s) = 0#5 ∨ (hostMoves s).cpu.ime = false) → quiet (hostMoves s) = true →
    decode (op :: tail) = .instr i rest →
    (∀ (k : Nat) (b : Byte), k < opLength op → (op :: tail)[k]? = some b →
      deviceRegister (hostMoves s).colorMode ((hostMoves s).cpu.pc + BitVec.ofNat 16 k) = false ∧
        busRead (hostMoves s) ((hostMoves s).cpu.pc + BitVec.ofNat 16 k) = .byte b) →
    ∃ u, ticks (opLength op) (hostMoves s) = .ok () u ∧ DeviceOnly (hostMoves s) u ∧
      step s = exec i { u with cpu := { u.cpu with pc := (hostMoves s).cpu.pc + BitVec.ofNat 16 (opLength op) } }

/-- A step answers a fault exactly when the machine is faulted, and then with its record (R401). Every other step, and every instruction in
every state, answers a next state: nothing is refused. Two clauses of this are the model's choice and not the spec's words: raising a fault
answers a next state with `FAULT` set (log 4, DEDUCED), and a `HALT` that a refetch reads again is left to the next step, where R352 goes on
inside one step, for ever in plain memory (log 7, DESIGN CHOICE). -/
def Obligations.StepOutcomes : Prop :=
  (∀ (s : State) (f : Fault), step s = .fault f ↔ s.fault = some f) ∧
    (∀ s : State, s.fault = none → ∃ t, step s = .next t) ∧
    ∀ (i : Instr) (s : State), ∃ t, exec i s = .next t

/-- A `HALT` is left to the next step only inside a refetch (R352): every step keeps it so that then the parameter asks for refetching, `IME` is
clear, the machine is not halted, and an interrupt is pending. So nothing but that `HALT` could come next: the model's splitting of the spec's
step (log 7) passes over no interrupt. -/
def Obligations.HaltAgainStaysInPlace : Prop :=
  ∀ s t : State, haltInPlace s = true → step s = .next t → haltInPlace t = true

/-- A halted machine with nothing pending spends one tick and fetches nothing: `PC` and every CPU register are unchanged and the
devices advance by that one tick, whether or not a paced VRAM DMA in it raises a fault (R403). An enabled and pending source ends the halt
state whatever `IME` holds (R402). A machine with a `HALT` still to be run (log 7) is not halted (`Obligations.HaltAgainStaysInPlace`). -/
def Obligations.HaltedStep : Prop :=
  (∀ s : State, s.fault = none → s.hostQueue = [] → s.haltAgain = false → s.cpu.halted = true → pendingInterrupts s = 0#5 →
    ∃ u, (tick s = .ok () u ∨ tick s = .raised u) ∧ step s = .next u ∧ u.cpu = s.cpu ∧ (quiet s = true → Ticks s u)) ∧
  ∀ s : State, s.fault = none → s.hostQueue = [] → s.haltAgain = false → pendingInterrupts s ≠ 0#5 →
    step s = step { s with cpu := { s.cpu with halted := false } }

/-- Dispatch of the lowest enabled and pending source (R405, R406, R407): two ticks, `PC` pushed, `IME` and that one `IF` bit cleared,
`PC` at the source's vector, and a fifth tick; the halt state has ended (R402). With a `HALT` still to be run (log 7) `IME` is clear
(`Obligations.HaltAgainStaysInPlace`). -/
def Obligations.InterruptDispatch : Prop :=
  ∀ (s : State) (i : Fin 5),
    s.fault = none → s.hostQueue = [] → s.haltAgain = false → s.cpu.ime = true → quiet s = true →
    (s.irq.ie.getLsbD i.val = true ∧ s.irq.iflag.getLsbD i.val = true) →
    (∀ j : Nat, j < i.val → (s.irq.ie.getLsbD j && s.irq.iflag.getLsbD j) = false) →
    storable s (s.cpu.sp - 1#16) = true → storable s (s.cpu.sp - 2#16) = true →
    ∃ a b c t,
      Ticks { s with cpu := { s.cpu with halted := false } } a ∧ Ticks a b ∧ PushesWord s.cpu.pc b c ∧
      Ticks
        { c with
          irq := { c.irq with iflag := c.irq.iflag &&& ~~~BitVec.twoPow 5 i.val },
          cpu := { c.cpu with ime := false, pc := 0x0040#16 + BitVec.ofNat 16 (8 * i.val) } } t ∧
      t.cpu = { s.cpu with
        halted := false, ime := false, sp := s.cpu.sp - 2#16, pc := 0x0040#16 + BitVec.ofNat 16 (8 * i.val) } ∧
      step s = .next t

/-! ### 8-bit and 16-bit loads -/

/-- `LD r,r'`, `LD r,n` and `LD rr,nn` write their destination and nothing else, no flag among it (R201, R202, R231). -/
def Obligations.RegisterLoads : Prop :=
  ∀ s : State,
    (∀ r r' : Reg8, ∃ t, exec (.ldRR r r') s = .next t ∧ WritesReg8 r (s.cpu.get8 r') s.cpu.flags s t) ∧
    (∀ (r : Reg8) (n : Byte), ∃ t, exec (.ldRN r n) s = .next t ∧ WritesReg8 r n s.cpu.flags s t) ∧
    ∀ (rr : Reg16) (nn : Word), ∃ t, exec (.ldRrNn rr nn) s = .next t ∧ WritesReg16 rr nn s.cpu.flags s t

/-- The loads from memory read the byte at their address with one tick, write their register, and `LD A,(HL+)` and `LD A,(HL-)` then move
`HL` (R203, R206, R207, R210, R212, R214, R217, R219): nothing else changes but the clock-driven devices. -/
def Obligations.MemoryLoads : Prop :=
  (∀ (s : State) (i : Instr) (r : Reg8) (a : Word),
    loadForm i s = some (r, a) → quiet s = true → readable s a = true →
    ∃ v u t, ReadsByte a s v u ∧ WritesReg8 r v s.cpu.flags u t ∧ exec i s = .next t) ∧
  ∀ s : State, quiet s = true → readable s s.cpu.hl = true →
    ∃ v u, ReadsByte s.cpu.hl s v u ∧
      (let up := s.cpu.hl + 1#16
       exec .ldAHli s = .next { u with cpu := { s.cpu with a := v, h := up.extractLsb' 8 8, l := up.extractLsb' 0 8 } }) ∧
      (let down := s.cpu.hl - 1#16
       exec .ldAHld s = .next { u with cpu := { s.cpu with a := v, h := down.extractLsb' 8 8, l := down.extractLsb' 0 8 } })

/-- The stores of one byte store it at their address with one tick, and `LD (HL+),A` and `LD (HL-),A` then move `HL` (R204, R205, R208,
R209, R211, R213, R215, R216, R218): no register, no flag, and no byte of memory but the one at that address changes. -/
def Obligations.MemoryStores : Prop :=
  (∀ (s : State) (i : Instr) (a : Word) (v : Byte),
    storeForm i s = some (a, v) → quiet s = true → storable s a = true →
    ∃ t, StoresByte a v s t ∧ exec i s = .next t) ∧
  ∀ s : State, quiet s = true → storable s s.cpu.hl = true →
    ∃ u, StoresByte s.cpu.hl s.cpu.a s u ∧
      (let up := s.cpu.hl + 1#16
       exec .ldHliA s = .next { u with cpu := { s.cpu with h := up.extractLsb' 8 8, l := up.extractLsb' 0 8 } }) ∧
      (let down := s.cpu.hl - 1#16
       exec .ldHldA s = .next { u with cpu := { s.cpu with h := down.extractLsb' 8 8, l := down.extractLsb' 0 8 } })

/-- Where a load or a store of one byte traps: at an address with no owner (R80) and, with the gate open, in the RAM window of a TypeB cartridge
whose bank is above 3 (R143). It ends in a machine that holds the fault with that address, every CPU register as it was, `HL` of the forms that
move it among them (R216 to R219), and no byte of memory changed (R200). -/
def Obligations.UnownedAddressFaults : Prop :=
  ∀ (s : State) (i : Instr) (f : Fault), quiet s = true →
    let traps := ∃ t, exec i s = .next t ∧ t.fault = some f ∧ t.cpu = s.cpu ∧ t.mem = s.mem
    (∀ (r : Reg8) (a : Word), loadForm i s = some (r, a) → trapAt s a .read = some f → traps) ∧
    (∀ (a : Word) (v : Byte), storeForm i s = some (a, v) → trapAt s a .write = some f → traps) ∧
    (i ∈ [Instr.ldAHli, Instr.ldAHld] → trapAt s s.cpu.hl .read = some f → traps) ∧
    (i ∈ [Instr.ldHliA, Instr.ldHldA] → trapAt s s.cpu.hl .write = some f → traps)

/-- `LD (nn),A` and then `LD A,(nn)` (R71 to R75, R210, R211): an address that shows a byte of memory gives back the byte stored, every other
address that is no device's register reads as before the store, and the flags are as they were. -/
def Obligations.StoreThenLoad : Prop :=
  ∀ (s : State) (nn : Word) (p : MemPlace),
    quiet s = true → placeOf s nn = some p →
    ∃ t w, exec (.ldNnA nn) s = .next t ∧ exec (.ldANn nn) t = .next w ∧ w.cpu = s.cpu ∧ busRead t nn = .byte s.cpu.a ∧
      ∀ b : Word, deviceRegister s.colorMode b = false → placeOf s b ≠ some p → busRead t b = busRead s b

/-- `LD SP,HL`, `LD HL,SP+e` and `ADD SP,e` (R233, R234, R294): the sum with the signed displacement, the flags of the unsigned sum of the
displacement and the low byte of `SP`, and one tick or two. -/
def Obligations.StackPointerSums : Prop :=
  ∀ (s : State) (e : Byte), quiet s = true →
    (∃ t, Ticks { s with cpu := { s.cpu with sp := s.cpu.hl } } t ∧ exec .ldSpHl s = .next t) ∧
    (let sum := s.cpu.sp + e.signExtend 16
     let f : Flags := {
      z := false, n := false, h := decide (s.cpu.sp.toNat % 16 + e.toNat % 16 > 15),
      c := decide (s.cpu.sp.toNat % 256 + e.toNat > 255) }
     (∃ t, Ticks { s with cpu := { s.cpu with h := sum.extractLsb' 8 8, l := sum.extractLsb' 0 8, flags := f } } t ∧
        exec (.ldHlSpE e) s = .next t) ∧
      ∃ u t, Ticks { s with cpu := { s.cpu with sp := sum, flags := f } } u ∧ Ticks u t ∧ exec (.addSpE e) s = .next t)

/-- `PUSH`, `POP` and `LD (nn),SP` (R232, R235, R236): the bytes, their order, `SP`, and nothing else. `POP AF` keeps the four flags of the
low byte and drops its other bits. -/
def Obligations.StackTransfers : Prop :=
  (∀ (s : State) (qq : Reg16Stk),
    quiet s = true → storable s (s.cpu.sp - 1#16) = true → storable s (s.cpu.sp - 2#16) = true →
    ∃ u t, Ticks s u ∧ PushesWord (s.cpu.getStk qq) u t ∧ exec (.pushQq qq) s = .next t) ∧
  (∀ (s : State) (qq : Reg16Stk),
    quiet s = true → readable s s.cpu.sp = true → readable s (s.cpu.sp + 1#16) = true →
    ∃ v u t, PopsWord s v u ∧ exec (.popQq qq) s = .next t ∧ t = { u with cpu := t.cpu } ∧
      t.cpu.getStk qq = (if qq = .af then v &&& 0xFFF0#16 else v) ∧ (∀ q, q ≠ qq → t.cpu.getStk q = s.cpu.getStk q) ∧
      t.cpu.sp = s.cpu.sp + 2#16 ∧ t.cpu.pc = s.cpu.pc ∧ t.cpu.ime = s.cpu.ime ∧ t.cpu.halted = s.cpu.halted) ∧
  ∀ (s : State) (nn : Word),
    quiet s = true → storable s nn = true → storable s (nn + 1#16) = true →
    ∃ t, StoresWord nn s.cpu.sp s t ∧ exec (.ldNnSp nn) s = .next t

/-- A pair pushed and popped again is the pair it was, and every CPU register with it, where the stack is memory (R230). -/
def Obligations.PushThenPop : Prop :=
  ∀ (s : State) (qq : Reg16Stk) (p q : MemPlace),
    quiet s = true → placeOf s (s.cpu.sp - 1#16) = some p → placeOf s (s.cpu.sp - 2#16) = some q → p ≠ q →
    ∃ t w, exec (.pushQq qq) s = .next t ∧ exec (.popQq qq) t = .next w ∧ w.cpu = s.cpu

/-- The pair view and the two 8-bit views of a pair are the same bytes, the first-named register the high one, and a write through one
view is seen through the other (R21). -/
def Obligations.PairViews : Prop :=
  ∀ (p : Cpu) (v : Word) (x y : Byte),
    (p.af = p.a ++ p.flags.toByte ∧ p.bc = p.b ++ p.c ∧ p.de = p.d ++ p.e ∧ p.hl = p.h ++ p.l) ∧
    ((p.set16 .bc v).b = v.extractLsb' 8 8 ∧ (p.set16 .bc v).c = v.extractLsb' 0 8) ∧
    ((p.set16 .de v).d = v.extractLsb' 8 8 ∧ (p.set16 .de v).e = v.extractLsb' 0 8) ∧
    ((p.set16 .hl v).h = v.extractLsb' 8 8 ∧ (p.set16 .hl v).l = v.extractLsb' 0 8) ∧
    ((p.setStk .af v).a = v.extractLsb' 8 8 ∧ (p.setStk .af v).flags.toByte = v.extractLsb' 0 8 &&& 0xF0#8) ∧
    (((p.set8 .b x).set8 .c y).bc = x ++ y ∧ ((p.set8 .d x).set8 .e y).de = x ++ y ∧ ((p.set8 .h x).set8 .l y).hl = x ++ y)

/-- The flags byte holds the four flags in bits 7 to 4 and zeros below them; a byte written to it is masked (R22, R27). -/
def Obligations.FlagsByte : Prop :=
  ∀ (f : Flags) (v : Byte),
    f.toByte &&& 0x0F#8 = 0x00#8 ∧
    (f.toByte.getLsbD 7 = f.z ∧ f.toByte.getLsbD 6 = f.n ∧ f.toByte.getLsbD 5 = f.h ∧ f.toByte.getLsbD 4 = f.c) ∧
    Flags.ofByte f.toByte = f ∧ (Flags.ofByte v).toByte = v &&& 0xF0#8

/-! ### 8-bit arithmetic and logic -/

/-- `ADD` and `ADC` of a register and of an immediate (R250, R251, R253, R254, R256): `A`, the four flags, and nothing else. -/
def Obligations.AddAndAdc : Prop :=
  ∀ (s : State) (r : Reg8) (n : Byte),
    exec (.addAR r) s = .next (afterAdd s (s.cpu.get8 r) false) ∧
    exec (.addAN n) s = .next (afterAdd s n false) ∧
    exec (.adcAR r) s = .next (afterAdd s (s.cpu.get8 r) s.cpu.flags.c) ∧
    exec (.adcAN n) s = .next (afterAdd s n s.cpu.flags.c)

/-- `SUB`, `SBC`, `CP`, `AND`, `XOR` and `OR` of a register and of an immediate (R257 to R274): `A`, the four flags, and nothing else. -/
def Obligations.SubtractAndLogic : Prop :=
  ∀ (s : State) (r : Reg8) (n : Byte),
    (exec (.subR r) s = .next (afterSub s (s.cpu.get8 r) false) ∧ exec (.subN n) s = .next (afterSub s n false)) ∧
    (exec (.sbcAR r) s = .next (afterSub s (s.cpu.get8 r) s.cpu.flags.c) ∧
      exec (.sbcAN n) s = .next (afterSub s n s.cpu.flags.c)) ∧
    (exec (.cpR r) s = .next (afterCompare s (s.cpu.get8 r)) ∧ exec (.cpN n) s = .next (afterCompare s n)) ∧
    (exec (.andR r) s = .next (afterLogic s (s.cpu.a &&& s.cpu.get8 r) true) ∧
      exec (.andN n) s = .next (afterLogic s (s.cpu.a &&& n) true)) ∧
    (exec (.xorR r) s = .next (afterLogic s (s.cpu.a ^^^ s.cpu.get8 r) false) ∧
      exec (.xorN n) s = .next (afterLogic s (s.cpu.a ^^^ n) false)) ∧
    (exec (.orR r) s = .next (afterLogic s (s.cpu.a ||| s.cpu.get8 r) false) ∧
      exec (.orN n) s = .next (afterLogic s (s.cpu.a ||| n) false))

/-- The eight operations on the byte at `HL` (R252, R255, R258, R261, R264, R267, R270, R273): one read with its tick, then `A` and the
flags as for a register, and nothing else. -/
def Obligations.AluOnMemory : Prop :=
  ∀ s : State, quiet s = true → readable s s.cpu.hl = true →
    ∃ v u, ReadsByte s.cpu.hl s v u ∧
      exec .addAHl s = .next (afterAdd u v false) ∧ exec .adcAHl s = .next (afterAdd u v s.cpu.flags.c) ∧
      exec .subHl s = .next (afterSub u v false) ∧ exec .sbcAHl s = .next (afterSub u v s.cpu.flags.c) ∧
      exec .cpHl s = .next (afterCompare u v) ∧ exec .andHl s = .next (afterLogic u (s.cpu.a &&& v) true) ∧
      exec .xorHl s = .next (afterLogic u (s.cpu.a ^^^ v) false) ∧ exec .orHl s = .next (afterLogic u (s.cpu.a ||| v) false)

/-- `INC r` and `DEC r` (R275, R277): the register, `fZ`, `fN`, `fH`, and nothing else; `fC` is not touched. -/
def Obligations.IncAndDecRegister : Prop :=
  ∀ (s : State) (r : Reg8),
    (∃ t, exec (.incR r) s = .next t ∧
      WritesReg8 r (s.cpu.get8 r + 1#8)
        { s.cpu.flags with
          z := s.cpu.get8 r == 0xFF#8, n := false, h := decide ((s.cpu.get8 r).toNat % 16 = 15) } s t) ∧
    ∃ t, exec (.decR r) s = .next t ∧
      WritesReg8 r (s.cpu.get8 r - 1#8)
        { s.cpu.flags with
          z := s.cpu.get8 r == 0x01#8, n := true, h := decide ((s.cpu.get8 r).toNat % 16 = 0) } s t

/-- The instructions that change the byte at `HL` in place, `INC`, `DEC`, the eight rotates and shifts, `RES` and `SET` (R276, R278, R306 to
R320, R324, R326): one read and one write, each with its tick, at the address that `HL` holds; the byte, the flags, and nothing else. -/
def Obligations.ReadModifyWrite : Prop :=
  ∀ (s : State) (i : Instr) (op : Flags → Byte → Byte × Flags),
    modifyForm i = some op → quiet s = true → storable s s.cpu.hl = true →
    ∃ v u t, ReadsByte s.cpu.hl s v u ∧
      StoresByte s.cpu.hl (op s.cpu.flags v).1 { u with cpu := { u.cpu with flags := (op s.cpu.flags v).2 } } t ∧
      exec i s = .next t

/-- `DAA` (R279), with the high test made on the operand (92_eei_decisions.md D22): the correction, `fN` kept, `fH` cleared, `fC` set by a
correction of the high digit after an addition and never cleared. -/
def Obligations.DecimalAdjust : Prop :=
  ∀ s : State,
    let low : Bool := s.cpu.flags.h || (!s.cpu.flags.n && decide (s.cpu.a.toNat % 16 > 9))
    let high : Bool := s.cpu.flags.c || (!s.cpu.flags.n && decide (s.cpu.a.toNat > 0x99))
    let corr : Byte := (if low then 0x06#8 else 0x00#8) + (if high then 0x60#8 else 0x00#8)
    let res : Byte := if s.cpu.flags.n then s.cpu.a - corr else s.cpu.a + corr
    exec .daa s =
      .next { s with cpu := { s.cpu with a := res, flags := { s.cpu.flags with z := res == 0x00#8, h := false, c := high } } }

/-- `DAA` after an addition or a subtraction of two-digit decimal numbers gives their decimal sum or difference, the carry the hundred or the
borrow (derived from R251, R257 and R279). -/
def Obligations.DecimalArithmetic : Prop :=
  ∀ (s : State) (x y : Nat), x < 100 → y < 100 → s.cpu.a = bcd x →
    (∃ t w, exec (.addAN (bcd y)) s = .next t ∧ exec .daa t = .next w ∧
      w.cpu.a = bcd ((x + y) % 100) ∧ w.cpu.flags.c = decide (x + y ≥ 100)) ∧
    ∃ t w, exec (.subN (bcd y)) s = .next t ∧ exec .daa t = .next w ∧
      w.cpu.a = bcd ((x + 100 - y) % 100) ∧ w.cpu.flags.c = decide (x < y)

/-- `CPL` complements `A` and sets `fN` and `fH`; `SCF` sets the carry and `CCF` complements it, and both clear `fN` and `fH`; nothing else
changes (R280, R281, R282). -/
def Obligations.ComplementAndCarry : Prop :=
  ∀ s : State,
    exec .cpl s = .next { s with cpu := { s.cpu with a := 0xFF#8 - s.cpu.a, flags := { s.cpu.flags with n := true, h := true } } } ∧
    exec .scf s = .next { s with cpu := { s.cpu with flags := { s.cpu.flags with n := false, h := false, c := true } } } ∧
    exec .ccf s =
      .next { s with cpu := { s.cpu with flags := { s.cpu.flags with n := false, h := false, c := !s.cpu.flags.c } } }

/-! ### 16-bit arithmetic -/

/-- `INC rr`, `DEC rr` and `ADD HL,rr` (R291, R292, R293): the pair, one tick, and for `ADD HL,rr` the carries out of bits 11 and 15; `fZ` is
not touched, and the first two touch no flag. -/
def Obligations.PairArithmetic : Prop :=
  ∀ (s : State) (rr : Reg16), quiet s = true →
    (∃ m t, WritesReg16 rr (s.cpu.get16 rr + 1#16) s.cpu.flags s m ∧ Ticks m t ∧ exec (.incRr rr) s = .next t) ∧
    (∃ m t, WritesReg16 rr (s.cpu.get16 rr - 1#16) s.cpu.flags s m ∧ Ticks m t ∧ exec (.decRr rr) s = .next t) ∧
    ∃ m t,
      WritesReg16 .hl (s.cpu.hl + s.cpu.get16 rr)
        { s.cpu.flags with
          n := false, h := decide ((s.cpu.hl &&& 0x0FFF#16).toNat + (s.cpu.get16 rr &&& 0x0FFF#16).toNat > 0x0FFF),
          c := decide (s.cpu.hl.toNat + (s.cpu.get16 rr).toNat > 0xFFFF) } s m ∧
      Ticks m t ∧ exec (.addHlRr rr) s = .next t

/-! ### Rotates, shifts, single bits -/

/-- `RLCA`, `RRCA`, `RLA`, `RRA` (R301 to R304): `A` and the carry, the other three flags cleared, and nothing else. -/
def Obligations.AccumulatorRotates : Prop :=
  ∀ s : State,
    let after := fun y : Fin 8 =>
      { s with
        cpu := {
          s.cpu with
          a := (rotated y s.cpu.flags.c s.cpu.a).1,
          flags := { z := false, n := false, h := false, c := (rotated y s.cpu.flags.c s.cpu.a).2 } } }
    exec .rlca s = .next (after 0) ∧ exec .rrca s = .next (after 1) ∧ exec .rla s = .next (after 2) ∧ exec .rra s = .next (after 3)

/-- The eight prefixed rotates and shifts of a register (R305 to R319): the register, the four flags, and nothing else. -/
def Obligations.PrefixedRotates : Prop :=
  ∀ (s : State) (y : Fin 8) (r : Reg8),
    ∃ t, exec (shiftRegForm y r) s = .next t ∧
      WritesReg8 r (rotatedWithFlags y s.cpu.flags (s.cpu.get8 r)).1 (rotatedWithFlags y s.cpu.flags (s.cpu.get8 r)).2 s t

/-- `BIT` of a register and of the byte at `HL` (R321, R322): `fZ` is the complement of the bit, `fN` is cleared, `fH` set, and nothing else. -/
def Obligations.BitTests : Prop :=
  ∀ (s : State) (bn : Fin 8),
    (∀ r : Reg8,
      exec (.bitBR bn r) s =
        .next { s with cpu := { s.cpu with
          flags := { s.cpu.flags with z := !(s.cpu.get8 r).getLsbD bn.val, n := false, h := true } } }) ∧
    (quiet s = true → readable s s.cpu.hl = true →
      ∃ v u, ReadsByte s.cpu.hl s v u ∧
        exec (.bitBHl bn) s =
          .next { u with cpu := { s.cpu with flags := { s.cpu.flags with z := !v.getLsbD bn.val, n := false, h := true } } })

/-- `RES` and `SET` of a register (R323, R325): that one bit of that one register, no flag, and nothing else. -/
def Obligations.ResAndSetRegister : Prop :=
  ∀ (s : State) (bn : Fin 8) (r : Reg8),
    (∃ t v, exec (.resBR bn r) s = .next t ∧ WritesReg8 r v s.cpu.flags s t ∧
      ∀ k : Nat, v.getLsbD k = if k = bn.val then false else (s.cpu.get8 r).getLsbD k) ∧
    ∃ t v, exec (.setBR bn r) s = .next t ∧ WritesReg8 r v s.cpu.flags s t ∧
      ∀ k : Nat, v.getLsbD k = if k = bn.val then true else (s.cpu.get8 r).getLsbD k

/-! ### Control transfer -/

/-- The four conditions read `fZ` and `fC` (R28). The jumps (R331 to R335): a jump that is taken moves `PC` and spends one tick (`JP HL` none), one that is not taken does nothing. -/
def Obligations.Jumps : Prop :=
  (∀ f : Flags, condHolds .nz f = !f.z ∧ condHolds .z f = f.z ∧ condHolds .nc f = !f.c ∧ condHolds .c f = f.c) ∧
  ∀ (s : State) (cc : Cond) (nn : Word) (e : Byte), quiet s = true →
    exec .jpHl s = .next { s with cpu := { s.cpu with pc := s.cpu.hl } } ∧
    (∃ t, Ticks { s with cpu := { s.cpu with pc := nn } } t ∧ exec (.jpNn nn) s = .next t ∧
      exec (.jpCcNn cc nn) s = if condHolds cc s.cpu.flags then .next t else .next s) ∧
    ∃ t, Ticks { s with cpu := { s.cpu with pc := s.cpu.pc + e.signExtend 16 } } t ∧ exec (.jrE e) s = .next t ∧
      exec (.jrCcE cc e) s = if condHolds cc s.cpu.flags then .next t else .next s

/-- `CALL nn`, `CALL cc,nn` and `RST t` (R336, R337, R343): one tick, `PC` pushed, and `PC` at the target; a call not taken does nothing. -/
def Obligations.Calls : Prop :=
  ∀ (s : State) (cc : Cond) (nn : Word),
    quiet s = true → storable s (s.cpu.sp - 1#16) = true → storable s (s.cpu.sp - 2#16) = true →
    ∃ u t, Ticks s u ∧ PushesWord s.cpu.pc u t ∧
      exec (.callNn nn) s = .next { t with cpu := { t.cpu with pc := nn } } ∧
      exec (.callCcNn cc nn) s = (if condHolds cc s.cpu.flags then .next { t with cpu := { t.cpu with pc := nn } } else .next s) ∧
      ∀ v : Byte, exec (.rstT v) s = .next { t with cpu := { t.cpu with pc := v.setWidth 16 } }

/-- `RET`, `RETI` and `RET cc` (R338, R339, R340): `PC` popped and one tick; `RETI` then sets `IME` and restores nothing else; `RET cc` spends a
tick first, whether or not the condition holds. -/
def Obligations.Returns : Prop :=
  ∀ (s : State) (cc : Cond),
    quiet s = true → readable s s.cpu.sp = true → readable s (s.cpu.sp + 1#16) = true →
    (∃ v u t, PopsWord s v u ∧ Ticks { u with cpu := { u.cpu with pc := v } } t ∧
      exec .ret s = .next t ∧ exec .reti s = .next { t with cpu := { t.cpu with ime := true } }) ∧
    ∃ w, Ticks s w ∧
      (condHolds cc s.cpu.flags = false → exec (.retCc cc) s = .next w) ∧
      (condHolds cc s.cpu.flags = true →
        ∃ v u t, PopsWord w v u ∧ Ticks { u with cpu := { u.cpu with pc := v } } t ∧ exec (.retCc cc) s = .next t)

/-- A call and the return from it, where the stack is memory: `SP` as it was, and `PC` at the instruction after the call (R336, R338). -/
def Obligations.CallThenReturn : Prop :=
  ∀ (s : State) (nn : Word) (p q : MemPlace),
    quiet s = true → placeOf s (s.cpu.sp - 1#16) = some p → placeOf s (s.cpu.sp - 2#16) = some q → p ≠ q →
    ∃ t w, exec (.callNn nn) s = .next t ∧ t.cpu.pc = nn ∧ exec .ret t = .next w ∧ w.cpu = s.cpu

/-! ### System instructions -/

/-- `NOP`, `DI` and `EI` (R351, R354, R355): nothing, and `IME` at once. -/
def Obligations.NopDiEi : Prop :=
  ∀ s : State,
    exec .nop s = .next s ∧ exec .di s = .next { s with cpu := { s.cpu with ime := false } } ∧
    exec .ei s = .next { s with cpu := { s.cpu with ime := true } }

/-- `STOP` and the eleven illegal opcodes raise their sticky fault with the address of the opcode, and change nothing else; the machine then
has no step (R353, R356, R401). -/
def Obligations.StopAndIllegalOpcodes : Prop :=
  ∀ s : State,
    (∃ t, exec .stop s = .next t ∧ t = { s with fault := some (.unmodelledStop (s.cpu.pc - 1#16)) } ∧
      step t = .fault (.unmodelledStop (s.cpu.pc - 1#16))) ∧
    ∀ (i : Instr) (op : Byte), illegalByte i = some op →
      ∃ t, exec i s = .next t ∧ t = { s with fault := some (.illegalOpcode op (s.cpu.pc - 1#16)) } ∧
        step t = .fault (.illegalOpcode op (s.cpu.pc - 1#16))

/-- `HALT` (R352): with nothing pending it sets `HALTED`; with something pending and `IME` set it does nothing; with `IME` clear it does what the
parameter `HALT_PENDING_IME0` says, and under `refetch` runs the instruction that the byte after it begins, `PC` not moved past that byte. Where
that instruction is `HALT` again, the next step runs it and nothing else, whatever the host has queued (the model's splitting, log 7). A fault
raised by reading the instruction ends the step. -/
def Obligations.Halt : Prop :=
  (∀ s : State,
    (pendingInterrupts s = 0#5 → exec .halt s = .next { s with cpu := { s.cpu with halted := true } }) ∧
    (pendingInterrupts s ≠ 0#5 → s.cpu.ime = true → exec .halt s = .next s) ∧
    (pendingInterrupts s ≠ 0#5 → s.cpu.ime = false → s.cfg.haltPendingIme0 = .nop → exec .halt s = .next s) ∧
    (pendingInterrupts s ≠ 0#5 → s.cpu.ime = false → s.cfg.haltPendingIme0 = .fault →
      exec .halt s = .next { s with fault := some (.haltWithPendingInterrupt (pendingInterrupts s)) }) ∧
    (pendingInterrupts s ≠ 0#5 → s.cpu.ime = false → s.cfg.haltPendingIme0 = .refetch →
      (∀ (op : Byte) (u t : State) (i : Instr), memRead s.cpu.pc s = .ok op u → fetchOperands op u = .ok i t →
        exec .halt s = if i = .halt then .next { t with haltAgain := true } else exec i t) ∧
      (∀ u : State, memRead s.cpu.pc s = .raised u → exec .halt s = .next u) ∧
      ∀ (op : Byte) (u t : State), memRead s.cpu.pc s = .ok op u → fetchOperands op u = .raised t → exec .halt s = .next t)) ∧
  ∀ s : State, s.fault = none → s.haltAgain = true → step s = exec .halt { s with haltAgain := false }

/-! ### Rules about the whole machine -/

/-- Which instructions write `IME`, `HALTED`, `PC` beyond their own fetch, and `SP` (R25, R26, R29, R30): no other changes them, whatever else
happens, a fault included. `HALT` is left out where it runs another instruction (R352). -/
def Obligations.WritersOfLatchesAndPointers : Prop :=
  ∀ (i : Instr) (s t : State), exec i s = .next t →
    (i ≠ .ei → i ≠ .di → i ≠ .reti → (i = .halt → s.cfg.haltPendingIme0 ≠ .refetch) → t.cpu.ime = s.cpu.ime) ∧
    (i ≠ .halt → t.cpu.halted = s.cpu.halted) ∧
    (movesPc i = false → t.cpu.pc = s.cpu.pc) ∧
    (movesSp i = false → t.cpu.sp = s.cpu.sp)

/-- The loads, the stores, the jumps, calls and returns, the pushes, the pops but of `AF`, `INC rr`, `DEC rr`, `RES`, `SET` and the system
instructions leave all four flags as they were, on the way to a fault as well (R27). `HALT` is left out, since under `refetch` it runs another
instruction (R352). -/
def Obligations.FlagsKeptByTheRest : Prop :=
  ∀ (i : Instr) (s t : State), keepsFlags i = true → exec i s = .next t → t.cpu.flags = s.cpu.flags

/-- What power-up fixes stays for the life of the machine (R6, R130): no step changes the colour mode, the parameters, the mapper's variant, the
bank count, the size of cartridge RAM, or a byte of the ROM. -/
def Obligations.FixedAtPowerUp : Prop :=
  ∀ s t : State, step s = .next t →
    t.colorMode = s.colorMode ∧ t.cfg = s.cfg ∧ t.mem.rom = s.mem.rom ∧ t.cart.kind = s.cart.kind ∧
      t.cart.romSize = s.cart.romSize ∧ t.cart.romBanks = s.cart.romBanks ∧ t.cart.ramSize = s.cart.ramSize

/-- Every step keeps every memory array and the frame buffer in its canonical form. The form, rising indexes and no entry equal to what an
unlisted index reads as, is the model's own choice and not the spec's (log 1, DESIGN CHOICE). -/
def Obligations.CanonicalMemoryKept : Prop :=
  ∀ s t : State, memoryCanonical s = true → step s = .next t → memoryCanonical t = true

/-- Every step keeps the PPU in its place (R490): on a dot of a frame with the mode of that dot, or, switched off, at the start of line 0. -/
def Obligations.PpuStaysInPlace : Prop :=
  ∀ s t : State, ppuInPlace s = true → step s = .next t → ppuInPlace t = true

/-- Every step keeps every entry of an array inside the array's size (R36, R42, R43, R44). -/
def Obligations.ArraysStayInRange : Prop :=
  ∀ s t : State, ppuInPlace s = true → arraysInRange s = true → step s = .next t → arraysInRange t = true

/-- Every step keeps the mapper's registers at values they can hold, `ROM_BANK_REG` never 0 (R140, R142, R146), and the VRAM DMA's block count in
its range (R43, R541 to R543). -/
def Obligations.MapperAndDmaStayInRange : Prop :=
  ∀ s t : State, step s = .next t →
    (mapperInRange s.cart = true → mapperInRange t.cart = true) ∧ (hdmaInRange s.colour = true → hdmaInRange t.colour = true)

/-- The invariants hold right after power-up, and so do the values the spec gives it: `PC` 0x0100, `SP` 0xFFFE, not halted, interrupts masked, the
PPU on at line 0, dot 0 (R562); no `HALT` is still to be run (log 7). Power-up of a blank 32 KiB image with no save gives `State.reset`; its other register values, its memory, its
parameters and its image are the model's choices (logs 1, 2, 3 and 14). -/
def Obligations.ResetState : Prop :=
  (memoryCanonical State.reset = true ∧ ppuInPlace State.reset = true ∧ arraysInRange State.reset = true ∧
    mapperInRange State.reset.cart = true ∧ hdmaInRange State.reset.colour = true ∧ haltInPlace State.reset = true) ∧
  (State.reset.cpu.pc = 0x0100#16 ∧ State.reset.cpu.sp = 0xFFFE#16 ∧ State.reset.cpu.halted = false ∧ State.reset.cpu.ime = false ∧
    State.reset.irq.ie = 0x00#8 ∧ State.reset.ppu.lcdc.getLsbD 7 = true ∧ State.reset.ppu.ly = 0x00#8 ∧ State.reset.ppu.dot = 0 ∧
    State.reset.ppu.mode = .oamScan ∧ State.reset.fault = none ∧ State.reset.haltAgain = false) ∧
  powerUp ⟨[], 32768⟩ none resetRecommended initialMemoryBlank Config.recommended = .next State.reset

/-- Power-up (R131, R132, R133, R560, R561): with legal header bytes and an image long enough, a machine that is not faulted, with the mapper, the
bank count and the RAM size of the header, bank 1 selected, the RAM gate closed and cartridge RAM all zero; with an unsupported mapper byte, a
machine that holds `UnsupportedMapper` with it; with a supported one, `BadRomImage` with the bank class where that is above 6, with the RAM class
where that is above 5, and with the bank class where the image is too short. An image with no byte 0x147 gives its length (95_test_vectors.md
section 5.10, log 12). The two tables are parameters (R9), recommended as the last clause says. -/
def Obligations.PowerUpFromHeader : Prop :=
  (∀ (rom : Image) (resets : Bool → ResetColumn) (init : InitialMemory) (cfg : Config) (t k c : Byte),
    imageByte rom 0x147 = some t → imageByte rom 0x148 = some k → imageByte rom 0x149 = some c →
    let ends := fun f : Fault => ∃ s, powerUp rom none resets init cfg = .next s ∧ s.fault = some f
    (∀ kind banks ram, mapperOfByte t = some kind → cfg.romBanks[k.toNat]? = some banks → cfg.ramSizeBytes[c.toNat]? = some ram →
      0x150 ≤ rom.size → 16384 * banks ≤ rom.size →
      ∃ s, powerUp rom none resets init cfg = .next s ∧ s.fault = none ∧ s.cart.kind = kind ∧ s.cart.romBanks = banks ∧
        s.cart.ramSize = ram ∧ s.cart.romBankReg = 1#7 ∧ s.cart.ramEnable = false ∧ s.mem.rom = rom.cells ∧ s.mem.cartRam = []) ∧
    (t.toNat ∉ [0x00, 0x01, 0x02, 0x03, 0x10, 0x13, 0x1B] → ends (.unsupportedMapper t)) ∧
    (mapperOfByte t ≠ none → k.toNat > 6 → ends (.badRomImage k.toNat)) ∧
    (mapperOfByte t ≠ none → k.toNat ≤ 6 → c.toNat > 5 → ends (.badRomImage c.toNat)) ∧
    (∀ banks, mapperOfByte t ≠ none → cfg.romBanks[k.toNat]? = some banks → c.toNat ≤ 5 →
      (rom.size < 0x150 ∨ rom.size < 16384 * banks) → ends (.badRomImage k.toNat))) ∧
  (∀ (rom : Image) (resets : Bool → ResetColumn) (init : InitialMemory) (cfg : Config), rom.size ≤ 0x147 →
    ∃ s, powerUp rom none resets init cfg = .next s ∧ s.fault = some (.badRomImage rom.size)) ∧
  (∀ k : Nat, Config.recommended.romBanks[k]? = if k ≤ 6 then some (2 <<< k) else none) ∧
  Config.recommended.ramSizeBytes.toList = [0, 2048, 8192, 32768, 131072, 65536]

/-! ### Devices -/

/-- `TimerTick()` (R443, R446): the divider counts up to its period and steps `DIV`; the timer, when enabled, counts up to the selected period and
steps `TIMA`, which at 0xFF is reloaded from `TMA` with a request of interrupt 2; nothing else changes. This is the pseudocode of the two rules as it
stands, for every period; that R33's bounds give way, on `TCNT` where a period is above 1024 and on `DIVCNT` where its period is 0, is the model's choice (log 19,
DESIGN CHOICE). -/
def Obligations.TimerTick : Prop :=
  ∀ s : State,
    (timerTick s).timer.divCnt = (if s.timer.divCnt + 1 ≥ s.cfg.divPeriodTicks then 0 else s.timer.divCnt + 1) ∧
    (timerTick s).timer.div = (if s.timer.divCnt + 1 ≥ s.cfg.divPeriodTicks then s.timer.div + 1#8 else s.timer.div) ∧
    (let period := [s.cfg.timaPeriod0, s.cfg.timaPeriod1, s.cfg.timaPeriod2, s.cfg.timaPeriod3].getD (s.timer.tac.toNat % 4) 0
     let due : Bool := s.timer.tac.getLsbD 2 && decide (s.timer.tCnt + 1 ≥ period)
     (timerTick s).timer.tCnt =
        (if s.timer.tac.getLsbD 2 = false then s.timer.tCnt else if due then 0 else s.timer.tCnt + 1) ∧
      (timerTick s).timer.tima =
        (if due = false then s.timer.tima else if s.timer.tima = 0xFF#8 then s.timer.tma else s.timer.tima + 1#8) ∧
      (timerTick s).irq =
        (if due = true ∧ s.timer.tima = 0xFF#8 then { s.irq with iflag := s.irq.iflag ||| 0b00100#5 } else s.irq)) ∧
    timerTick s = { s with
      timer := { (timerTick s).timer with tma := s.timer.tma, tac := s.timer.tac }, irq := (timerTick s).irq }

/-- A write of 0x81 to `SC` starts the countdown: the serial interrupt is requested by exactly the `SERIAL_DELAY_TICKS`-th serial tick after it,
and `SC` and `SB` keep their values (R452, R453). Any other value starts nothing. -/
def Obligations.SerialCountdown : Prop :=
  (∀ (s : State) (n : Nat), s.irq.iflag.getLsbD 3 = false → 0 < s.cfg.serialDelayTicks →
    let t := Nat.repeat serialTick n (writeSc 0x81#8 s)
    t.irq.iflag.getLsbD 3 = decide (s.cfg.serialDelayTicks ≤ n) ∧ t.serial.sc = 0x81#8 ∧ t.serial.sb = s.serial.sb) ∧
  ∀ (s : State) (v : Byte), v ≠ 0x81#8 →
    busWrite 0xFF02#16 v s = .ok () { s with serial := { s.serial with sc := v } }

/-- A read of 0xFF00 (R461): the two select bits as stored, bits 7 and 6 set, and each low bit clear exactly when a pressed key of a selected group
is there. -/
def Obligations.JoypadRead : Prop :=
  ∀ s : State,
    let dirs : Bool := !s.joypad.sel.getLsbD 0
    let btns : Bool := !s.joypad.sel.getLsbD 1
    ∃ v, busRead s 0xFF00#16 = .byte v ∧
      v.getLsbD 7 = true ∧ v.getLsbD 6 = true ∧ v.getLsbD 5 = s.joypad.sel.getLsbD 1 ∧ v.getLsbD 4 = s.joypad.sel.getLsbD 0 ∧
      v.getLsbD 3 = !(dirs && s.joypad.buttons.down || btns && s.joypad.buttons.start) ∧
      v.getLsbD 2 = !(dirs && s.joypad.buttons.up || btns && s.joypad.buttons.select) ∧
      v.getLsbD 1 = !(dirs && s.joypad.buttons.left || btns && s.joypad.buttons.b) ∧
      v.getLsbD 0 = !(dirs && s.joypad.buttons.right || btns && s.joypad.buttons.a)

/-- A button snapshot (R462, R463): it replaces the latch and changes nothing else of the machine but `IF[4]`; with `JOYPAD_IRQ = never` not that
either, with `onPress` it requests interrupt 4 exactly when some bit of the low nibble goes from 1 to 0. Under `draw` the request is a free value
(log 9): the statement says nothing of it. -/
def Obligations.ButtonSnapshot : Prop :=
  ∀ (s : State) (b : Buttons),
    (hostSetButtons b s).joypad = { s.joypad with buttons := b } ∧
    (hostSetButtons b s = { s with
      joypad := { s.joypad with buttons := b }, irq := (hostSetButtons b s).irq, freeCount := (hostSetButtons b s).freeCount }) ∧
    (hostSetButtons b s).irq.ie = s.irq.ie ∧
    (∀ k : Nat, k ≠ 4 → (hostSetButtons b s).irq.iflag.getLsbD k = s.irq.iflag.getLsbD k) ∧
    (s.cfg.joypadIrq = .never → (hostSetButtons b s).irq = s.irq) ∧
    (s.cfg.joypadIrq = .onPress →
      (hostSetButtons b s).irq.iflag.getLsbD 4 =
        (s.irq.iflag.getLsbD 4 ||
          (List.range 4).any fun k => (joypadLow s.joypad).getLsbD k && !(joypadLow { s.joypad with buttons := b }).getLsbD k))

/-- A frame is 154 lines of 456 dots (R490, R491, R525): from any place of the PPU, switched on, 70224 dots later it is at the same line and dot, has
handed over one frame, and `IF[0]` is set. -/
def Obligations.FrameGeometry : Prop :=
  ∀ s : State, quiet s = true → ppuInPlace s = true → s.ppu.lcdc.getLsbD 7 = true →
    ∃ t, repeatRes ppuDot 70224 s = .ok () t ∧ t.ppu.ly = s.ppu.ly ∧ t.ppu.dot = s.ppu.dot ∧ t.ppu.mode = s.ppu.mode ∧
      t.frameCount = s.frameCount + 1 ∧ t.irq.iflag.getLsbD 0 = true ∧ t.cpu = s.cpu ∧ t.mem = s.mem

/-- Switching the PPU off (R486) resets its position and requests nothing, whatever the STAT enables say; switched off, a dot does nothing at all; and
switching it on enters oam-scan at once (R487). -/
def Obligations.LcdSwitch : Prop :=
  ∀ (s : State) (v : Byte),
    (s.ppu.lcdc.getLsbD 7 = true → v.getLsbD 7 = false →
      busWrite 0xFF40#16 v s =
        .ok () { s with ppu := { s.ppu with
          lcdc := v, ly := 0x00#8, dot := 0, mode := .hBlank, lx := 0, drawWait := 0, winActive := false, bgValid := false } }) ∧
    (s.ppu.lcdc.getLsbD 7 = false → ppuDot s = .ok () s) ∧
    (s.ppu.lcdc.getLsbD 7 = false → v.getLsbD 7 = true →
      busWrite 0xFF40#16 v s =
        .ok () { s with
          ppu := { s.ppu with lcdc := v, mode := .oamScan },
          irq := if s.ppu.stat.getLsbD 2 then { s.irq with iflag := s.irq.iflag ||| 0b00010#5 } else s.irq })

/-- What the PPU draws (R500, R504, R510, R515, R520): emitting a pixel changes no cell of the frame but that of its position, and a DMG machine with
`LCDC[0]` clear and sprites off, or with no sprite there, puts shade 0 into it; the sprite lane gives the first entry of `OAM` that shows a
non-zero index there. -/
def Obligations.PixelOutput : Prop :=
  ∀ s : State,
    let at0 := 160 * s.ppu.ly.toNat + s.ppu.lx
    (∀ k : Nat, k ≠ at0 → cellsGet unlistedPixel (emitPixel s).fb k = cellsGet unlistedPixel s.fb k) ∧
    (s.colorMode = false → s.ppu.lcdc.getLsbD 0 = false → spriteLane s s.ppu.lx s.ppu.ly.toNat = none →
      cellsGet unlistedPixel (emitPixel s).fb at0 = .shade 0#2) ∧
    ∀ (x y : Nat) (k : BitVec 2) (attr : Byte), spriteLane s x y = some (k, attr) →
      k ≠ 0#2 ∧ s.ppu.lcdc.getLsbD 1 = true ∧
        ∃ n, n < 40 ∧ spritePixel s x y n = some (k, attr) ∧ ∀ m, m < n → spritePixel s x y m = none

/-- The OAM DMA (R110, R111): a write of `DMA` copies the 160 bytes of the page to `OAM`, whatever owner the page has, where its reads raise nothing
and it is no I/O page; a page with no owner raises `UnmappedAccess` at its first byte with `DMA` written and `OAM` unchanged. -/
def Obligations.OamDmaCopies : Prop :=
  ∀ (s : State) (v : Byte), quiet s = true →
    ((∀ i : Nat, i < 160 →
        deviceRegister s.colorMode (v ++ BitVec.ofNat 8 i) = false ∧ readable s (v ++ BitVec.ofNat 8 i) = true) →
      ∃ t, busWrite 0xFF46#16 v s = .ok () t ∧ t.ppu.dma = v ∧ t.cpu = s.cpu ∧
        (∀ i : Nat, i < 160 → busRead s (v ++ BitVec.ofNat 8 i) = .byte (byteAt t.mem.oam i)) ∧
        t.mem = { s.mem with oam := t.mem.oam }) ∧
    (0xE0 ≤ v.toNat → v.toNat ≤ 0xFD →
      ∃ t, busWrite 0xFF46#16 v s = .raised t ∧ t.fault = some (.unmappedAccess (v ++ 0x00#8) .read) ∧ t.ppu.dma = v ∧
        t.mem = s.mem)

/-- The VRAM DMA. At h-blank entry (R543): nothing without Colour mode or with no paced transfer; otherwise one block, and the transfer ends with the
last. A block with a source outside VRAM and the I/O page copies 16 bytes and moves both addresses, the destination inside its bank (R542). What
`HDMA5` reads (R544). A write of `HDMA5` (R541) aborts a paced transfer, keeping the blocks left; starts one, at the addresses of `HDMA1` to `HDMA4`;
or copies all its blocks at once, and changes nothing else: from a source with no owner it faults at the first byte. -/
def Obligations.VramDma : Prop :=
  ∀ s : State,
    let plain := fun a : Word =>
      deviceRegister s.colorMode a = false ∧ readable s a = true ∧ (a.toNat < 0x8000 ∨ 0xA000 ≤ a.toNat)
    ((s.colorMode = false ∨ s.colour.hdmaActive = false) → hBlankDma s = .ok () s) ∧
    (∀ t : State, s.colorMode = true → s.colour.hdmaActive = true → copyBlock s = .ok () t →
      hBlankDma s =
        .ok () (if t.colour.hdmaLeft = 0 then { t with colour := { t.colour with hdmaActive := false } } else t)) ∧
    ((∀ i : Nat, i < 16 → plain (s.colour.hdmaSrc + BitVec.ofNat 16 i)) →
      ∃ t, copyBlock s = .ok () t ∧ t.colour.hdmaLeft = s.colour.hdmaLeft - 1 ∧ t.colour.hdmaSrc = s.colour.hdmaSrc + 16#16 ∧
        t.colour.hdmaDst = BitVec.ofNat 16 ((s.colour.hdmaDst.toNat + 16) % 8192) ∧
        ∀ i : Nat, i < 16 →
          busRead s (s.colour.hdmaSrc + BitVec.ofNat 16 i) =
            .byte (byteAt t.mem.vram (8192 * s.colour.vbk.toNat + (s.colour.hdmaDst.toNat + i) % 8192))) ∧
    (s.colorMode = true → hdmaInRange s.colour = true →
      busRead s 0xFF55#16 =
        .byte (if s.colour.hdmaActive = true then BitVec.ofNat 8 (s.colour.hdmaLeft - 1)
          else if s.colour.hdmaLeft = 0 then 0xFF#8 else BitVec.ofNat 8 (0x80 + (s.colour.hdmaLeft - 1)))) ∧
    ∀ v : Byte, s.colorMode = true →
      let n := 16 * (v.toNat % 128 + 1)
      let loaded : Colour := {
        s.colour with
        hdmaSrc := (s.colour.hdma1 ++ s.colour.hdma2) &&& 0xFFF0#16, hdmaDst := (s.colour.hdma3 ++ s.colour.hdma4) &&& 0x1FF0#16,
        hdmaLeft := v.toNat % 128 + 1 }
      let at0 := fun i : Nat => 8192 * s.colour.vbk.toNat + (loaded.hdmaDst.toNat + i) % 8192
      (s.colour.hdmaActive = true → v.getLsbD 7 = false →
        busWrite 0xFF55#16 v s = .ok () { s with colour := { s.colour with hdmaActive := false } }) ∧
      (v.getLsbD 7 = true → busWrite 0xFF55#16 v s = .ok () { s with colour := { loaded with hdmaActive := true } }) ∧
      (s.colour.hdmaActive = false → v.getLsbD 7 = false →
        (∀ i : Nat, i < n → plain (loaded.hdmaSrc + BitVec.ofNat 16 i)) →
        ∃ t, busWrite 0xFF55#16 v s = .ok () t ∧
          t = { s with
            mem := { s.mem with vram := t.mem.vram },
            colour := {
              loaded with
              hdmaSrc := loaded.hdmaSrc + BitVec.ofNat 16 n, hdmaDst := BitVec.ofNat 16 ((loaded.hdmaDst.toNat + n) % 8192),
              hdmaLeft := 0, hdmaActive := false } } ∧
          (∀ i : Nat, i < n → busRead s (loaded.hdmaSrc + BitVec.ofNat 16 i) = .byte (byteAt t.mem.vram (at0 i))) ∧
          ∀ k : Nat, (∀ i : Nat, i < n → k ≠ at0 i) → byteAt t.mem.vram k = byteAt s.mem.vram k) ∧
      (s.colour.hdmaActive = false → v.getLsbD 7 = false → 0xE0 ≤ s.colour.hdma1.toNat → s.colour.hdma1.toNat ≤ 0xFD →
        ∃ t, busWrite 0xFF55#16 v s = .raised t ∧ t = { s with
          colour := loaded, fault := some (.unmappedAccess loaded.hdmaSrc .read) })

/-! ### The cartridge -/

/-- A write below 0x8000 is a write of a mapper register (R138, R140, R142): the register its address range names, a written ROM bank of 0 folded to
1, no register without a mapper; no byte of memory changes and nothing is raised. -/
def Obligations.MapperRegisterWrites : Prop :=
  ∀ (s : State) (a : Word) (v : Byte), a.toNat < 0x8000 →
    let bits := fun n : Nat => v.toNat % 2 ^ n
    let gate : Bool := decide (v.toNat % 16 = 10)
    busWrite a v s =
      .ok () { s with
        cart :=
          match s.cart.kind with
          | .none => s.cart
          | .typeA =>
            if a.toNat < 0x2000 then { s.cart with ramEnable := gate }
            else if a.toNat < 0x4000 then { s.cart with romBankReg := BitVec.ofNat 7 (max (bits 5) 1) }
            else if a.toNat < 0x6000 then { s.cart with ramBankReg := BitVec.ofNat 4 (bits 2) }
            else { s.cart with bankMode := decide (bits 1 = 1) }
          | .typeB =>
            if a.toNat < 0x2000 then { s.cart with ramEnable := gate }
            else if a.toNat < 0x4000 then { s.cart with romBankReg := BitVec.ofNat 7 (max (bits 7) 1) }
            else if a.toNat < 0x6000 then { s.cart with ramBankReg := BitVec.ofNat 4 (bits 4) }
            else s.cart }

/-- What the two windows of the cartridge show (R136, R138, R141, R143), and the RAM gate (R139): with no RAM, or with the gate of a mapper closed, the
RAM window reads the sentinel and a write to it does nothing. -/
def Obligations.CartridgeWindows : Prop :=
  ∀ (s : State) (a : Word),
    (a.toNat < 0x4000 →
      busRead s a = .byte (byteAt s.mem.rom
        (if s.cart.kind = .typeA ∧ s.cart.bankMode = true then 16384 * (32 * s.cart.ramBankReg.toNat % s.cart.romBanks) + a.toNat
          else if s.cart.kind = .typeA then 16384 * (0 % s.cart.romBanks) + a.toNat else a.toNat))) ∧
    (0x4000 ≤ a.toNat → a.toNat < 0x8000 →
      busRead s a = .byte (byteAt s.mem.rom
        (match s.cart.kind with
          | .none => a.toNat
          | .typeA => 16384 * ((32 * s.cart.ramBankReg.toNat ||| s.cart.romBankReg.toNat) % s.cart.romBanks) + (a.toNat - 0x4000)
          | .typeB => 16384 * (s.cart.romBankReg.toNat % s.cart.romBanks) + (a.toNat - 0x4000)))) ∧
    (0xA000 ≤ a.toNat → a.toNat < 0xC000 →
      (s.cart.ramSize = 0 ∨ (s.cart.kind ≠ .none ∧ s.cart.ramEnable = false)) →
      busRead s a = .byte s.cfg.ramDisabledSentinel ∧ ∀ v : Byte, busWrite a v s = .ok () s) ∧
    (0xA000 ≤ a.toNat → a.toNat < 0xC000 → s.cart.ramSize ≠ 0 → s.cart.kind = .typeB → s.cart.ramEnable = true →
      3 < s.cart.ramBankReg.toNat → busRead s a = .fault (.unmodelledMapperFeature a s.cart.ramBankReg))
end

