-- ==== Sys2Proof/Laws/Cells.lean ====
section
/-!
SUPPORT. Sparse arrays: reading after a write, for every list, and the canonical form, which every write keeps.
-/

namespace Sys2Proof.Machine

variable {α : Type}

/-! ### Reading after a write -/

theorem cellsGet_erase_same (d : α) (l : List (Nat × α)) (k : Nat) : cellsGet d (cellsErase l k) k = d := by
  induction l with
  | nil => rfl
  | cons e rest ih =>
    simp only [cellsErase]
    split
    · exact ih
    · simp only [cellsGet, if_neg ‹_›, ih]

theorem cellsGet_erase_other (d : α) (l : List (Nat × α)) (k j : Nat) (h : j ≠ k) :
    cellsGet d (cellsErase l k) j = cellsGet d l j := by
  induction l with
  | nil => rfl
  | cons e rest ih =>
    simp only [cellsErase, cellsGet]
    split
    · rw [ih, if_neg (by omega)]
    · simp only [cellsGet, ih]

theorem cellsGet_insert_same (d : α) (l : List (Nat × α)) (k : Nat) (v : α) : cellsGet d (cellsInsert l k v) k = v := by
  induction l with
  | nil => simp [cellsInsert, cellsGet]
  | cons e rest ih =>
    simp only [cellsInsert]
    split
    · simp [cellsGet]
    · split
      · simp [cellsGet]
      · simp only [cellsGet, if_neg ‹¬k = e.1›, ih]

theorem cellsGet_insert_other (d : α) (l : List (Nat × α)) (k j : Nat) (v : α) (h : j ≠ k) :
    cellsGet d (cellsInsert l k v) j = cellsGet d l j := by
  induction l with
  | nil => simp [cellsInsert, cellsGet, h]
  | cons e rest ih =>
    simp only [cellsInsert]
    split
    · simp [cellsGet, h]
    · split
      · subst k
        simp [cellsGet, h]
      · simp only [cellsGet, ih]

/-- An array reads back what was written. -/
theorem cellsGet_set_same [DecidableEq α] (d : α) (l : List (Nat × α)) (k : Nat) (v : α) : cellsGet d (cellsSet d l k v) k = v := by
  unfold cellsSet
  split
  · rw [cellsGet_erase_same, ‹v = d›]
  · exact cellsGet_insert_same d l k v

/-- A write leaves every other index alone. -/
theorem cellsGet_set_other [DecidableEq α] (d : α) (l : List (Nat × α)) (k j : Nat) (v : α) (h : j ≠ k) :
    cellsGet d (cellsSet d l k v) j = cellsGet d l j := by
  unfold cellsSet
  split
  · exact cellsGet_erase_other d l k j h
  · exact cellsGet_insert_other d l k j v h

/-! ### The canonical form -/

theorem cellsWfFrom_mono [DecidableEq α] (d : α) (l : List (Nat × α)) (lo lo' : Nat) (h : lo' ≤ lo) (hw : cellsWfFrom d lo l = true) :
    cellsWfFrom d lo' l = true := by
  cases l with
  | nil => rfl
  | cons e rest =>
    simp only [cellsWfFrom, Bool.and_eq_true, decide_eq_true_eq] at hw ⊢
    exact ⟨⟨Nat.le_trans h hw.1.1, hw.1.2⟩, hw.2⟩

theorem cellsWfFrom_erase [DecidableEq α] (d : α) (l : List (Nat × α)) (k lo : Nat) (hw : cellsWfFrom d lo l = true) :
    cellsWfFrom d lo (cellsErase l k) = true := by
  induction l generalizing lo with
  | nil => rfl
  | cons e rest ih =>
    simp only [cellsWfFrom, Bool.and_eq_true, decide_eq_true_eq] at hw
    simp only [cellsErase]
    split
    · exact cellsWfFrom_mono d _ (e.1 + 1) lo (by omega) (ih _ hw.2)
    · simp only [cellsWfFrom, Bool.and_eq_true, decide_eq_true_eq]
      exact ⟨hw.1, ih _ hw.2⟩

theorem cellsWfFrom_insert [DecidableEq α] (d : α) (l : List (Nat × α)) (k lo : Nat) (v : α) (hv : v ≠ d) (hk : lo ≤ k)
    (hw : cellsWfFrom d lo l = true) : cellsWfFrom d lo (cellsInsert l k v) = true := by
  induction l generalizing lo with
  | nil => simp [cellsInsert, cellsWfFrom, hv, hk]
  | cons e rest ih =>
    simp only [cellsWfFrom, Bool.and_eq_true, decide_eq_true_eq] at hw
    simp only [cellsInsert]
    split
    · simp only [cellsWfFrom, Bool.and_eq_true, decide_eq_true_eq]
      exact ⟨⟨hk, hv⟩, ⟨by omega, hw.1.2⟩, hw.2⟩
    · split
      · subst k
        simp only [cellsWfFrom, Bool.and_eq_true, decide_eq_true_eq]
        exact ⟨⟨hk, hv⟩, hw.2⟩
      · simp only [cellsWfFrom, Bool.and_eq_true, decide_eq_true_eq]
        exact ⟨hw.1, ih _ (by omega) hw.2⟩

/-- A write keeps the canonical form. -/
theorem cellsWf_set [DecidableEq α] (d : α) (l : List (Nat × α)) (k : Nat) (v : α) (hw : cellsWf d l = true) :
    cellsWf d (cellsSet d l k v) = true := by
  unfold cellsWf cellsSet at *
  split
  · exact cellsWfFrom_erase d l k 0 hw
  · exact cellsWfFrom_insert d l k 0 v ‹_› (Nat.zero_le k) hw

/-! ### Membership: an entry after a write is an old one or the new one -/

theorem mem_cellsErase (l : List (Nat × α)) (k : Nat) (e : Nat × α) (h : e ∈ cellsErase l k) : e ∈ l := by
  induction l with
  | nil => exact h
  | cons x rest ih =>
    simp only [cellsErase] at h
    split at h
    · exact List.mem_cons_of_mem _ (ih h)
    · rcases List.mem_cons.mp h with rfl | h
      · exact List.mem_cons_self
      · exact List.mem_cons_of_mem _ (ih h)

theorem mem_cellsInsert (l : List (Nat × α)) (k : Nat) (v : α) (e : Nat × α) (h : e ∈ cellsInsert l k v) : e ∈ l ∨ e = (k, v) := by
  induction l with
  | nil => exact .inr (by simpa [cellsInsert] using h)
  | cons x rest ih =>
    simp only [cellsInsert] at h
    split at h
    · rcases List.mem_cons.mp h with rfl | h
      · exact .inr rfl
      · exact .inl h
    · split at h
      · rcases List.mem_cons.mp h with rfl | h
        · exact .inr rfl
        · exact .inl (List.mem_cons_of_mem _ h)
      · rcases List.mem_cons.mp h with rfl | h
        · exact .inl List.mem_cons_self
        · exact (ih h).imp (List.mem_cons_of_mem _) id

/-- Every entry of a written array is an entry of the old one, or the one written. -/
theorem mem_cellsSet [DecidableEq α] (d : α) (l : List (Nat × α)) (k : Nat) (v : α) (e : Nat × α) (h : e ∈ cellsSet d l k v) :
    e ∈ l ∨ e = (k, v) := by
  unfold cellsSet at h
  split at h
  · exact .inl (mem_cellsErase l k e h)
  · exact mem_cellsInsert l k v e h

/-! ### Memory bytes -/

@[simp] theorem byteAt_setByte_same (l : List Host.Cell) (k : Nat) (v : Byte) : byteAt (setByte l k v) k = v :=
  cellsGet_set_same unlistedByte l k v

theorem byteAt_setByte_other (l : List Host.Cell) (k j : Nat) (v : Byte) (h : j ≠ k) : byteAt (setByte l k v) j = byteAt l j :=
  cellsGet_set_other unlistedByte l k j v h

theorem cellsWf_setByte (l : List Host.Cell) (k : Nat) (v : Byte) (hw : cellsWf unlistedByte l = true) :
    cellsWf unlistedByte (setByte l k v) = true := cellsWf_set unlistedByte l k v hw

end Sys2Proof.Machine
end

