-- ==== Sys2Proof/Laws/State.lean ====
section
/-!
SUPPORT. One lemma for each field of the state under each named update, true by unfolding, so that no proof opens a record update; and
the register file read after a write.
-/

namespace Sys2Proof.Machine

/-! ### Updates of the CPU -/

@[simp] theorem State.withCpu_cpu (s : State) (p : Cpu) : (State.withCpu s p).cpu = p := rfl
@[simp] theorem State.withCpu_irq (s : State) (p : Cpu) : (State.withCpu s p).irq = s.irq := rfl
@[simp] theorem State.withCpu_timer (s : State) (p : Cpu) : (State.withCpu s p).timer = s.timer := rfl
@[simp] theorem State.withCpu_serial (s : State) (p : Cpu) : (State.withCpu s p).serial = s.serial := rfl
@[simp] theorem State.withCpu_joypad (s : State) (p : Cpu) : (State.withCpu s p).joypad = s.joypad := rfl
@[simp] theorem State.withCpu_ppu (s : State) (p : Cpu) : (State.withCpu s p).ppu = s.ppu := rfl
@[simp] theorem State.withCpu_colour (s : State) (p : Cpu) : (State.withCpu s p).colour = s.colour := rfl
@[simp] theorem State.withCpu_cart (s : State) (p : Cpu) : (State.withCpu s p).cart = s.cart := rfl
@[simp] theorem State.withCpu_mem (s : State) (p : Cpu) : (State.withCpu s p).mem = s.mem := rfl
@[simp] theorem State.withCpu_fb (s : State) (p : Cpu) : (State.withCpu s p).fb = s.fb := rfl
@[simp] theorem State.withCpu_fault (s : State) (p : Cpu) : (State.withCpu s p).fault = s.fault := rfl
@[simp] theorem State.withCpu_colorMode (s : State) (p : Cpu) : (State.withCpu s p).colorMode = s.colorMode := rfl
@[simp] theorem State.withCpu_cfg (s : State) (p : Cpu) : (State.withCpu s p).cfg = s.cfg := rfl
@[simp] theorem State.withCpu_frameCount (s : State) (p : Cpu) : (State.withCpu s p).frameCount = s.frameCount := rfl
@[simp] theorem State.withCpu_lastFrame (s : State) (p : Cpu) : (State.withCpu s p).lastFrame = s.lastFrame := rfl
@[simp] theorem State.withCpu_hostQueue (s : State) (p : Cpu) : (State.withCpu s p).hostQueue = s.hostQueue := rfl
@[simp] theorem State.withCpu_haltAgain (s : State) (p : Cpu) : (State.withCpu s p).haltAgain = s.haltAgain := rfl
@[simp] theorem State.withCpu_freeCount (s : State) (p : Cpu) : (State.withCpu s p).freeCount = s.freeCount := rfl

@[simp] theorem State.setReg8_cpu (s : State) (r : Reg8) (v : Byte) : (State.setReg8 s r v).cpu = s.cpu.set8 r v := rfl
@[simp] theorem State.setReg8_irq (s : State) (r : Reg8) (v : Byte) : (State.setReg8 s r v).irq = s.irq := rfl
@[simp] theorem State.setReg8_timer (s : State) (r : Reg8) (v : Byte) : (State.setReg8 s r v).timer = s.timer := rfl
@[simp] theorem State.setReg8_serial (s : State) (r : Reg8) (v : Byte) : (State.setReg8 s r v).serial = s.serial := rfl
@[simp] theorem State.setReg8_joypad (s : State) (r : Reg8) (v : Byte) : (State.setReg8 s r v).joypad = s.joypad := rfl
@[simp] theorem State.setReg8_ppu (s : State) (r : Reg8) (v : Byte) : (State.setReg8 s r v).ppu = s.ppu := rfl
@[simp] theorem State.setReg8_colour (s : State) (r : Reg8) (v : Byte) : (State.setReg8 s r v).colour = s.colour := rfl
@[simp] theorem State.setReg8_cart (s : State) (r : Reg8) (v : Byte) : (State.setReg8 s r v).cart = s.cart := rfl
@[simp] theorem State.setReg8_mem (s : State) (r : Reg8) (v : Byte) : (State.setReg8 s r v).mem = s.mem := rfl
@[simp] theorem State.setReg8_fb (s : State) (r : Reg8) (v : Byte) : (State.setReg8 s r v).fb = s.fb := rfl
@[simp] theorem State.setReg8_fault (s : State) (r : Reg8) (v : Byte) : (State.setReg8 s r v).fault = s.fault := rfl
@[simp] theorem State.setReg8_colorMode (s : State) (r : Reg8) (v : Byte) : (State.setReg8 s r v).colorMode = s.colorMode := rfl
@[simp] theorem State.setReg8_cfg (s : State) (r : Reg8) (v : Byte) : (State.setReg8 s r v).cfg = s.cfg := rfl
@[simp] theorem State.setReg8_frameCount (s : State) (r : Reg8) (v : Byte) : (State.setReg8 s r v).frameCount = s.frameCount := rfl
@[simp] theorem State.setReg8_lastFrame (s : State) (r : Reg8) (v : Byte) : (State.setReg8 s r v).lastFrame = s.lastFrame := rfl
@[simp] theorem State.setReg8_hostQueue (s : State) (r : Reg8) (v : Byte) : (State.setReg8 s r v).hostQueue = s.hostQueue := rfl
@[simp] theorem State.setReg8_haltAgain (s : State) (r : Reg8) (v : Byte) : (State.setReg8 s r v).haltAgain = s.haltAgain := rfl
@[simp] theorem State.setReg8_freeCount (s : State) (r : Reg8) (v : Byte) : (State.setReg8 s r v).freeCount = s.freeCount := rfl

@[simp] theorem State.setA_cpu (s : State) (v : Byte) : (State.setA s v).cpu = { s.cpu with a := v } := rfl
@[simp] theorem State.setA_irq (s : State) (v : Byte) : (State.setA s v).irq = s.irq := rfl
@[simp] theorem State.setA_timer (s : State) (v : Byte) : (State.setA s v).timer = s.timer := rfl
@[simp] theorem State.setA_serial (s : State) (v : Byte) : (State.setA s v).serial = s.serial := rfl
@[simp] theorem State.setA_joypad (s : State) (v : Byte) : (State.setA s v).joypad = s.joypad := rfl
@[simp] theorem State.setA_ppu (s : State) (v : Byte) : (State.setA s v).ppu = s.ppu := rfl
@[simp] theorem State.setA_colour (s : State) (v : Byte) : (State.setA s v).colour = s.colour := rfl
@[simp] theorem State.setA_cart (s : State) (v : Byte) : (State.setA s v).cart = s.cart := rfl
@[simp] theorem State.setA_mem (s : State) (v : Byte) : (State.setA s v).mem = s.mem := rfl
@[simp] theorem State.setA_fb (s : State) (v : Byte) : (State.setA s v).fb = s.fb := rfl
@[simp] theorem State.setA_fault (s : State) (v : Byte) : (State.setA s v).fault = s.fault := rfl
@[simp] theorem State.setA_colorMode (s : State) (v : Byte) : (State.setA s v).colorMode = s.colorMode := rfl
@[simp] theorem State.setA_cfg (s : State) (v : Byte) : (State.setA s v).cfg = s.cfg := rfl
@[simp] theorem State.setA_frameCount (s : State) (v : Byte) : (State.setA s v).frameCount = s.frameCount := rfl
@[simp] theorem State.setA_lastFrame (s : State) (v : Byte) : (State.setA s v).lastFrame = s.lastFrame := rfl
@[simp] theorem State.setA_hostQueue (s : State) (v : Byte) : (State.setA s v).hostQueue = s.hostQueue := rfl
@[simp] theorem State.setA_haltAgain (s : State) (v : Byte) : (State.setA s v).haltAgain = s.haltAgain := rfl
@[simp] theorem State.setA_freeCount (s : State) (v : Byte) : (State.setA s v).freeCount = s.freeCount := rfl

@[simp] theorem State.setFlags_cpu (s : State) (f : Flags) : (State.setFlags s f).cpu = { s.cpu with flags := f } := rfl
@[simp] theorem State.setFlags_irq (s : State) (f : Flags) : (State.setFlags s f).irq = s.irq := rfl
@[simp] theorem State.setFlags_timer (s : State) (f : Flags) : (State.setFlags s f).timer = s.timer := rfl
@[simp] theorem State.setFlags_serial (s : State) (f : Flags) : (State.setFlags s f).serial = s.serial := rfl
@[simp] theorem State.setFlags_joypad (s : State) (f : Flags) : (State.setFlags s f).joypad = s.joypad := rfl
@[simp] theorem State.setFlags_ppu (s : State) (f : Flags) : (State.setFlags s f).ppu = s.ppu := rfl
@[simp] theorem State.setFlags_colour (s : State) (f : Flags) : (State.setFlags s f).colour = s.colour := rfl
@[simp] theorem State.setFlags_cart (s : State) (f : Flags) : (State.setFlags s f).cart = s.cart := rfl
@[simp] theorem State.setFlags_mem (s : State) (f : Flags) : (State.setFlags s f).mem = s.mem := rfl
@[simp] theorem State.setFlags_fb (s : State) (f : Flags) : (State.setFlags s f).fb = s.fb := rfl
@[simp] theorem State.setFlags_fault (s : State) (f : Flags) : (State.setFlags s f).fault = s.fault := rfl
@[simp] theorem State.setFlags_colorMode (s : State) (f : Flags) : (State.setFlags s f).colorMode = s.colorMode := rfl
@[simp] theorem State.setFlags_cfg (s : State) (f : Flags) : (State.setFlags s f).cfg = s.cfg := rfl
@[simp] theorem State.setFlags_frameCount (s : State) (f : Flags) : (State.setFlags s f).frameCount = s.frameCount := rfl
@[simp] theorem State.setFlags_lastFrame (s : State) (f : Flags) : (State.setFlags s f).lastFrame = s.lastFrame := rfl
@[simp] theorem State.setFlags_hostQueue (s : State) (f : Flags) : (State.setFlags s f).hostQueue = s.hostQueue := rfl
@[simp] theorem State.setFlags_haltAgain (s : State) (f : Flags) : (State.setFlags s f).haltAgain = s.haltAgain := rfl
@[simp] theorem State.setFlags_freeCount (s : State) (f : Flags) : (State.setFlags s f).freeCount = s.freeCount := rfl

@[simp] theorem State.setHl_cpu (s : State) (v : Word) : (State.setHl s v).cpu = s.cpu.setHl v := rfl
@[simp] theorem State.setHl_irq (s : State) (v : Word) : (State.setHl s v).irq = s.irq := rfl
@[simp] theorem State.setHl_timer (s : State) (v : Word) : (State.setHl s v).timer = s.timer := rfl
@[simp] theorem State.setHl_serial (s : State) (v : Word) : (State.setHl s v).serial = s.serial := rfl
@[simp] theorem State.setHl_joypad (s : State) (v : Word) : (State.setHl s v).joypad = s.joypad := rfl
@[simp] theorem State.setHl_ppu (s : State) (v : Word) : (State.setHl s v).ppu = s.ppu := rfl
@[simp] theorem State.setHl_colour (s : State) (v : Word) : (State.setHl s v).colour = s.colour := rfl
@[simp] theorem State.setHl_cart (s : State) (v : Word) : (State.setHl s v).cart = s.cart := rfl
@[simp] theorem State.setHl_mem (s : State) (v : Word) : (State.setHl s v).mem = s.mem := rfl
@[simp] theorem State.setHl_fb (s : State) (v : Word) : (State.setHl s v).fb = s.fb := rfl
@[simp] theorem State.setHl_fault (s : State) (v : Word) : (State.setHl s v).fault = s.fault := rfl
@[simp] theorem State.setHl_colorMode (s : State) (v : Word) : (State.setHl s v).colorMode = s.colorMode := rfl
@[simp] theorem State.setHl_cfg (s : State) (v : Word) : (State.setHl s v).cfg = s.cfg := rfl
@[simp] theorem State.setHl_frameCount (s : State) (v : Word) : (State.setHl s v).frameCount = s.frameCount := rfl
@[simp] theorem State.setHl_lastFrame (s : State) (v : Word) : (State.setHl s v).lastFrame = s.lastFrame := rfl
@[simp] theorem State.setHl_hostQueue (s : State) (v : Word) : (State.setHl s v).hostQueue = s.hostQueue := rfl
@[simp] theorem State.setHl_haltAgain (s : State) (v : Word) : (State.setHl s v).haltAgain = s.haltAgain := rfl
@[simp] theorem State.setHl_freeCount (s : State) (v : Word) : (State.setHl s v).freeCount = s.freeCount := rfl

@[simp] theorem State.setSp_cpu (s : State) (v : Word) : (State.setSp s v).cpu = { s.cpu with sp := v } := rfl
@[simp] theorem State.setSp_irq (s : State) (v : Word) : (State.setSp s v).irq = s.irq := rfl
@[simp] theorem State.setSp_timer (s : State) (v : Word) : (State.setSp s v).timer = s.timer := rfl
@[simp] theorem State.setSp_serial (s : State) (v : Word) : (State.setSp s v).serial = s.serial := rfl
@[simp] theorem State.setSp_joypad (s : State) (v : Word) : (State.setSp s v).joypad = s.joypad := rfl
@[simp] theorem State.setSp_ppu (s : State) (v : Word) : (State.setSp s v).ppu = s.ppu := rfl
@[simp] theorem State.setSp_colour (s : State) (v : Word) : (State.setSp s v).colour = s.colour := rfl
@[simp] theorem State.setSp_cart (s : State) (v : Word) : (State.setSp s v).cart = s.cart := rfl
@[simp] theorem State.setSp_mem (s : State) (v : Word) : (State.setSp s v).mem = s.mem := rfl
@[simp] theorem State.setSp_fb (s : State) (v : Word) : (State.setSp s v).fb = s.fb := rfl
@[simp] theorem State.setSp_fault (s : State) (v : Word) : (State.setSp s v).fault = s.fault := rfl
@[simp] theorem State.setSp_colorMode (s : State) (v : Word) : (State.setSp s v).colorMode = s.colorMode := rfl
@[simp] theorem State.setSp_cfg (s : State) (v : Word) : (State.setSp s v).cfg = s.cfg := rfl
@[simp] theorem State.setSp_frameCount (s : State) (v : Word) : (State.setSp s v).frameCount = s.frameCount := rfl
@[simp] theorem State.setSp_lastFrame (s : State) (v : Word) : (State.setSp s v).lastFrame = s.lastFrame := rfl
@[simp] theorem State.setSp_hostQueue (s : State) (v : Word) : (State.setSp s v).hostQueue = s.hostQueue := rfl
@[simp] theorem State.setSp_haltAgain (s : State) (v : Word) : (State.setSp s v).haltAgain = s.haltAgain := rfl
@[simp] theorem State.setSp_freeCount (s : State) (v : Word) : (State.setSp s v).freeCount = s.freeCount := rfl

@[simp] theorem State.setPc_cpu (s : State) (v : Word) : (State.setPc s v).cpu = { s.cpu with pc := v } := rfl
@[simp] theorem State.setPc_irq (s : State) (v : Word) : (State.setPc s v).irq = s.irq := rfl
@[simp] theorem State.setPc_timer (s : State) (v : Word) : (State.setPc s v).timer = s.timer := rfl
@[simp] theorem State.setPc_serial (s : State) (v : Word) : (State.setPc s v).serial = s.serial := rfl
@[simp] theorem State.setPc_joypad (s : State) (v : Word) : (State.setPc s v).joypad = s.joypad := rfl
@[simp] theorem State.setPc_ppu (s : State) (v : Word) : (State.setPc s v).ppu = s.ppu := rfl
@[simp] theorem State.setPc_colour (s : State) (v : Word) : (State.setPc s v).colour = s.colour := rfl
@[simp] theorem State.setPc_cart (s : State) (v : Word) : (State.setPc s v).cart = s.cart := rfl
@[simp] theorem State.setPc_mem (s : State) (v : Word) : (State.setPc s v).mem = s.mem := rfl
@[simp] theorem State.setPc_fb (s : State) (v : Word) : (State.setPc s v).fb = s.fb := rfl
@[simp] theorem State.setPc_fault (s : State) (v : Word) : (State.setPc s v).fault = s.fault := rfl
@[simp] theorem State.setPc_colorMode (s : State) (v : Word) : (State.setPc s v).colorMode = s.colorMode := rfl
@[simp] theorem State.setPc_cfg (s : State) (v : Word) : (State.setPc s v).cfg = s.cfg := rfl
@[simp] theorem State.setPc_frameCount (s : State) (v : Word) : (State.setPc s v).frameCount = s.frameCount := rfl
@[simp] theorem State.setPc_lastFrame (s : State) (v : Word) : (State.setPc s v).lastFrame = s.lastFrame := rfl
@[simp] theorem State.setPc_hostQueue (s : State) (v : Word) : (State.setPc s v).hostQueue = s.hostQueue := rfl
@[simp] theorem State.setPc_haltAgain (s : State) (v : Word) : (State.setPc s v).haltAgain = s.haltAgain := rfl
@[simp] theorem State.setPc_freeCount (s : State) (v : Word) : (State.setPc s v).freeCount = s.freeCount := rfl

@[simp] theorem State.setIme_cpu (s : State) (v : Bool) : (State.setIme s v).cpu = { s.cpu with ime := v } := rfl
@[simp] theorem State.setIme_irq (s : State) (v : Bool) : (State.setIme s v).irq = s.irq := rfl
@[simp] theorem State.setIme_timer (s : State) (v : Bool) : (State.setIme s v).timer = s.timer := rfl
@[simp] theorem State.setIme_serial (s : State) (v : Bool) : (State.setIme s v).serial = s.serial := rfl
@[simp] theorem State.setIme_joypad (s : State) (v : Bool) : (State.setIme s v).joypad = s.joypad := rfl
@[simp] theorem State.setIme_ppu (s : State) (v : Bool) : (State.setIme s v).ppu = s.ppu := rfl
@[simp] theorem State.setIme_colour (s : State) (v : Bool) : (State.setIme s v).colour = s.colour := rfl
@[simp] theorem State.setIme_cart (s : State) (v : Bool) : (State.setIme s v).cart = s.cart := rfl
@[simp] theorem State.setIme_mem (s : State) (v : Bool) : (State.setIme s v).mem = s.mem := rfl
@[simp] theorem State.setIme_fb (s : State) (v : Bool) : (State.setIme s v).fb = s.fb := rfl
@[simp] theorem State.setIme_fault (s : State) (v : Bool) : (State.setIme s v).fault = s.fault := rfl
@[simp] theorem State.setIme_colorMode (s : State) (v : Bool) : (State.setIme s v).colorMode = s.colorMode := rfl
@[simp] theorem State.setIme_cfg (s : State) (v : Bool) : (State.setIme s v).cfg = s.cfg := rfl
@[simp] theorem State.setIme_frameCount (s : State) (v : Bool) : (State.setIme s v).frameCount = s.frameCount := rfl
@[simp] theorem State.setIme_lastFrame (s : State) (v : Bool) : (State.setIme s v).lastFrame = s.lastFrame := rfl
@[simp] theorem State.setIme_hostQueue (s : State) (v : Bool) : (State.setIme s v).hostQueue = s.hostQueue := rfl
@[simp] theorem State.setIme_haltAgain (s : State) (v : Bool) : (State.setIme s v).haltAgain = s.haltAgain := rfl
@[simp] theorem State.setIme_freeCount (s : State) (v : Bool) : (State.setIme s v).freeCount = s.freeCount := rfl

@[simp] theorem State.setHalted_cpu (s : State) (v : Bool) : (State.setHalted s v).cpu = { s.cpu with halted := v } := rfl
@[simp] theorem State.setHalted_irq (s : State) (v : Bool) : (State.setHalted s v).irq = s.irq := rfl
@[simp] theorem State.setHalted_timer (s : State) (v : Bool) : (State.setHalted s v).timer = s.timer := rfl
@[simp] theorem State.setHalted_serial (s : State) (v : Bool) : (State.setHalted s v).serial = s.serial := rfl
@[simp] theorem State.setHalted_joypad (s : State) (v : Bool) : (State.setHalted s v).joypad = s.joypad := rfl
@[simp] theorem State.setHalted_ppu (s : State) (v : Bool) : (State.setHalted s v).ppu = s.ppu := rfl
@[simp] theorem State.setHalted_colour (s : State) (v : Bool) : (State.setHalted s v).colour = s.colour := rfl
@[simp] theorem State.setHalted_cart (s : State) (v : Bool) : (State.setHalted s v).cart = s.cart := rfl
@[simp] theorem State.setHalted_mem (s : State) (v : Bool) : (State.setHalted s v).mem = s.mem := rfl
@[simp] theorem State.setHalted_fb (s : State) (v : Bool) : (State.setHalted s v).fb = s.fb := rfl
@[simp] theorem State.setHalted_fault (s : State) (v : Bool) : (State.setHalted s v).fault = s.fault := rfl
@[simp] theorem State.setHalted_colorMode (s : State) (v : Bool) : (State.setHalted s v).colorMode = s.colorMode := rfl
@[simp] theorem State.setHalted_cfg (s : State) (v : Bool) : (State.setHalted s v).cfg = s.cfg := rfl
@[simp] theorem State.setHalted_frameCount (s : State) (v : Bool) : (State.setHalted s v).frameCount = s.frameCount := rfl
@[simp] theorem State.setHalted_lastFrame (s : State) (v : Bool) : (State.setHalted s v).lastFrame = s.lastFrame := rfl
@[simp] theorem State.setHalted_hostQueue (s : State) (v : Bool) : (State.setHalted s v).hostQueue = s.hostQueue := rfl
@[simp] theorem State.setHalted_haltAgain (s : State) (v : Bool) : (State.setHalted s v).haltAgain = s.haltAgain := rfl
@[simp] theorem State.setHalted_freeCount (s : State) (v : Bool) : (State.setHalted s v).freeCount = s.freeCount := rfl

@[simp] theorem State.setHaltAgain_cpu (s : State) (v : Bool) : (State.setHaltAgain s v).cpu = s.cpu := rfl
@[simp] theorem State.setHaltAgain_irq (s : State) (v : Bool) : (State.setHaltAgain s v).irq = s.irq := rfl
@[simp] theorem State.setHaltAgain_timer (s : State) (v : Bool) : (State.setHaltAgain s v).timer = s.timer := rfl
@[simp] theorem State.setHaltAgain_serial (s : State) (v : Bool) : (State.setHaltAgain s v).serial = s.serial := rfl
@[simp] theorem State.setHaltAgain_joypad (s : State) (v : Bool) : (State.setHaltAgain s v).joypad = s.joypad := rfl
@[simp] theorem State.setHaltAgain_ppu (s : State) (v : Bool) : (State.setHaltAgain s v).ppu = s.ppu := rfl
@[simp] theorem State.setHaltAgain_colour (s : State) (v : Bool) : (State.setHaltAgain s v).colour = s.colour := rfl
@[simp] theorem State.setHaltAgain_cart (s : State) (v : Bool) : (State.setHaltAgain s v).cart = s.cart := rfl
@[simp] theorem State.setHaltAgain_mem (s : State) (v : Bool) : (State.setHaltAgain s v).mem = s.mem := rfl
@[simp] theorem State.setHaltAgain_fb (s : State) (v : Bool) : (State.setHaltAgain s v).fb = s.fb := rfl
@[simp] theorem State.setHaltAgain_fault (s : State) (v : Bool) : (State.setHaltAgain s v).fault = s.fault := rfl
@[simp] theorem State.setHaltAgain_colorMode (s : State) (v : Bool) : (State.setHaltAgain s v).colorMode = s.colorMode := rfl
@[simp] theorem State.setHaltAgain_cfg (s : State) (v : Bool) : (State.setHaltAgain s v).cfg = s.cfg := rfl
@[simp] theorem State.setHaltAgain_frameCount (s : State) (v : Bool) : (State.setHaltAgain s v).frameCount = s.frameCount := rfl
@[simp] theorem State.setHaltAgain_lastFrame (s : State) (v : Bool) : (State.setHaltAgain s v).lastFrame = s.lastFrame := rfl
@[simp] theorem State.setHaltAgain_hostQueue (s : State) (v : Bool) : (State.setHaltAgain s v).hostQueue = s.hostQueue := rfl
@[simp] theorem State.setHaltAgain_haltAgain (s : State) (v : Bool) : (State.setHaltAgain s v).haltAgain = v := rfl
@[simp] theorem State.setHaltAgain_freeCount (s : State) (v : Bool) : (State.setHaltAgain s v).freeCount = s.freeCount := rfl

@[simp] theorem State.setAF_cpu (s : State) (r : Byte × Flags) : (State.setAF s r).cpu = { s.cpu with a := r.1, flags := r.2 } := rfl
@[simp] theorem State.setAF_irq (s : State) (r : Byte × Flags) : (State.setAF s r).irq = s.irq := rfl
@[simp] theorem State.setAF_timer (s : State) (r : Byte × Flags) : (State.setAF s r).timer = s.timer := rfl
@[simp] theorem State.setAF_serial (s : State) (r : Byte × Flags) : (State.setAF s r).serial = s.serial := rfl
@[simp] theorem State.setAF_joypad (s : State) (r : Byte × Flags) : (State.setAF s r).joypad = s.joypad := rfl
@[simp] theorem State.setAF_ppu (s : State) (r : Byte × Flags) : (State.setAF s r).ppu = s.ppu := rfl
@[simp] theorem State.setAF_colour (s : State) (r : Byte × Flags) : (State.setAF s r).colour = s.colour := rfl
@[simp] theorem State.setAF_cart (s : State) (r : Byte × Flags) : (State.setAF s r).cart = s.cart := rfl
@[simp] theorem State.setAF_mem (s : State) (r : Byte × Flags) : (State.setAF s r).mem = s.mem := rfl
@[simp] theorem State.setAF_fb (s : State) (r : Byte × Flags) : (State.setAF s r).fb = s.fb := rfl
@[simp] theorem State.setAF_fault (s : State) (r : Byte × Flags) : (State.setAF s r).fault = s.fault := rfl
@[simp] theorem State.setAF_colorMode (s : State) (r : Byte × Flags) : (State.setAF s r).colorMode = s.colorMode := rfl
@[simp] theorem State.setAF_cfg (s : State) (r : Byte × Flags) : (State.setAF s r).cfg = s.cfg := rfl
@[simp] theorem State.setAF_frameCount (s : State) (r : Byte × Flags) : (State.setAF s r).frameCount = s.frameCount := rfl
@[simp] theorem State.setAF_lastFrame (s : State) (r : Byte × Flags) : (State.setAF s r).lastFrame = s.lastFrame := rfl
@[simp] theorem State.setAF_hostQueue (s : State) (r : Byte × Flags) : (State.setAF s r).hostQueue = s.hostQueue := rfl
@[simp] theorem State.setAF_haltAgain (s : State) (r : Byte × Flags) : (State.setAF s r).haltAgain = s.haltAgain := rfl
@[simp] theorem State.setAF_freeCount (s : State) (r : Byte × Flags) : (State.setAF s r).freeCount = s.freeCount := rfl

@[simp] theorem State.setRegFlags_cpu (s : State) (r : Reg8) (v : Byte) (f : Flags) : (State.setRegFlags s r v f).cpu = { s.cpu.set8 r v with flags := f } := rfl
@[simp] theorem State.setRegFlags_irq (s : State) (r : Reg8) (v : Byte) (f : Flags) : (State.setRegFlags s r v f).irq = s.irq := rfl
@[simp] theorem State.setRegFlags_timer (s : State) (r : Reg8) (v : Byte) (f : Flags) : (State.setRegFlags s r v f).timer = s.timer := rfl
@[simp] theorem State.setRegFlags_serial (s : State) (r : Reg8) (v : Byte) (f : Flags) : (State.setRegFlags s r v f).serial = s.serial := rfl
@[simp] theorem State.setRegFlags_joypad (s : State) (r : Reg8) (v : Byte) (f : Flags) : (State.setRegFlags s r v f).joypad = s.joypad := rfl
@[simp] theorem State.setRegFlags_ppu (s : State) (r : Reg8) (v : Byte) (f : Flags) : (State.setRegFlags s r v f).ppu = s.ppu := rfl
@[simp] theorem State.setRegFlags_colour (s : State) (r : Reg8) (v : Byte) (f : Flags) : (State.setRegFlags s r v f).colour = s.colour := rfl
@[simp] theorem State.setRegFlags_cart (s : State) (r : Reg8) (v : Byte) (f : Flags) : (State.setRegFlags s r v f).cart = s.cart := rfl
@[simp] theorem State.setRegFlags_mem (s : State) (r : Reg8) (v : Byte) (f : Flags) : (State.setRegFlags s r v f).mem = s.mem := rfl
@[simp] theorem State.setRegFlags_fb (s : State) (r : Reg8) (v : Byte) (f : Flags) : (State.setRegFlags s r v f).fb = s.fb := rfl
@[simp] theorem State.setRegFlags_fault (s : State) (r : Reg8) (v : Byte) (f : Flags) : (State.setRegFlags s r v f).fault = s.fault := rfl
@[simp] theorem State.setRegFlags_colorMode (s : State) (r : Reg8) (v : Byte) (f : Flags) : (State.setRegFlags s r v f).colorMode = s.colorMode := rfl
@[simp] theorem State.setRegFlags_cfg (s : State) (r : Reg8) (v : Byte) (f : Flags) : (State.setRegFlags s r v f).cfg = s.cfg := rfl
@[simp] theorem State.setRegFlags_frameCount (s : State) (r : Reg8) (v : Byte) (f : Flags) : (State.setRegFlags s r v f).frameCount = s.frameCount := rfl
@[simp] theorem State.setRegFlags_lastFrame (s : State) (r : Reg8) (v : Byte) (f : Flags) : (State.setRegFlags s r v f).lastFrame = s.lastFrame := rfl
@[simp] theorem State.setRegFlags_hostQueue (s : State) (r : Reg8) (v : Byte) (f : Flags) : (State.setRegFlags s r v f).hostQueue = s.hostQueue := rfl
@[simp] theorem State.setRegFlags_haltAgain (s : State) (r : Reg8) (v : Byte) (f : Flags) : (State.setRegFlags s r v f).haltAgain = s.haltAgain := rfl
@[simp] theorem State.setRegFlags_freeCount (s : State) (r : Reg8) (v : Byte) (f : Flags) : (State.setRegFlags s r v f).freeCount = s.freeCount := rfl

/-! ### Updates of the devices and of memory -/

@[simp] theorem requestInterrupt_cpu (s : State) (i : Fin 5) : (requestInterrupt i s).cpu = s.cpu := rfl
@[simp] theorem requestInterrupt_irq (s : State) (i : Fin 5) : (requestInterrupt i s).irq = { s.irq with iflag := s.irq.iflag ||| (1#5 <<< i.val) } := rfl
@[simp] theorem requestInterrupt_timer (s : State) (i : Fin 5) : (requestInterrupt i s).timer = s.timer := rfl
@[simp] theorem requestInterrupt_serial (s : State) (i : Fin 5) : (requestInterrupt i s).serial = s.serial := rfl
@[simp] theorem requestInterrupt_joypad (s : State) (i : Fin 5) : (requestInterrupt i s).joypad = s.joypad := rfl
@[simp] theorem requestInterrupt_ppu (s : State) (i : Fin 5) : (requestInterrupt i s).ppu = s.ppu := rfl
@[simp] theorem requestInterrupt_colour (s : State) (i : Fin 5) : (requestInterrupt i s).colour = s.colour := rfl
@[simp] theorem requestInterrupt_cart (s : State) (i : Fin 5) : (requestInterrupt i s).cart = s.cart := rfl
@[simp] theorem requestInterrupt_mem (s : State) (i : Fin 5) : (requestInterrupt i s).mem = s.mem := rfl
@[simp] theorem requestInterrupt_fb (s : State) (i : Fin 5) : (requestInterrupt i s).fb = s.fb := rfl
@[simp] theorem requestInterrupt_fault (s : State) (i : Fin 5) : (requestInterrupt i s).fault = s.fault := rfl
@[simp] theorem requestInterrupt_colorMode (s : State) (i : Fin 5) : (requestInterrupt i s).colorMode = s.colorMode := rfl
@[simp] theorem requestInterrupt_cfg (s : State) (i : Fin 5) : (requestInterrupt i s).cfg = s.cfg := rfl
@[simp] theorem requestInterrupt_frameCount (s : State) (i : Fin 5) : (requestInterrupt i s).frameCount = s.frameCount := rfl
@[simp] theorem requestInterrupt_lastFrame (s : State) (i : Fin 5) : (requestInterrupt i s).lastFrame = s.lastFrame := rfl
@[simp] theorem requestInterrupt_hostQueue (s : State) (i : Fin 5) : (requestInterrupt i s).hostQueue = s.hostQueue := rfl
@[simp] theorem requestInterrupt_haltAgain (s : State) (i : Fin 5) : (requestInterrupt i s).haltAgain = s.haltAgain := rfl
@[simp] theorem requestInterrupt_freeCount (s : State) (i : Fin 5) : (requestInterrupt i s).freeCount = s.freeCount := rfl

@[simp] theorem clearInterrupt_cpu (s : State) (i : Fin 5) : (clearInterrupt i s).cpu = s.cpu := rfl
@[simp] theorem clearInterrupt_irq (s : State) (i : Fin 5) : (clearInterrupt i s).irq = { s.irq with iflag := s.irq.iflag &&& ~~~(1#5 <<< i.val) } := rfl
@[simp] theorem clearInterrupt_timer (s : State) (i : Fin 5) : (clearInterrupt i s).timer = s.timer := rfl
@[simp] theorem clearInterrupt_serial (s : State) (i : Fin 5) : (clearInterrupt i s).serial = s.serial := rfl
@[simp] theorem clearInterrupt_joypad (s : State) (i : Fin 5) : (clearInterrupt i s).joypad = s.joypad := rfl
@[simp] theorem clearInterrupt_ppu (s : State) (i : Fin 5) : (clearInterrupt i s).ppu = s.ppu := rfl
@[simp] theorem clearInterrupt_colour (s : State) (i : Fin 5) : (clearInterrupt i s).colour = s.colour := rfl
@[simp] theorem clearInterrupt_cart (s : State) (i : Fin 5) : (clearInterrupt i s).cart = s.cart := rfl
@[simp] theorem clearInterrupt_mem (s : State) (i : Fin 5) : (clearInterrupt i s).mem = s.mem := rfl
@[simp] theorem clearInterrupt_fb (s : State) (i : Fin 5) : (clearInterrupt i s).fb = s.fb := rfl
@[simp] theorem clearInterrupt_fault (s : State) (i : Fin 5) : (clearInterrupt i s).fault = s.fault := rfl
@[simp] theorem clearInterrupt_colorMode (s : State) (i : Fin 5) : (clearInterrupt i s).colorMode = s.colorMode := rfl
@[simp] theorem clearInterrupt_cfg (s : State) (i : Fin 5) : (clearInterrupt i s).cfg = s.cfg := rfl
@[simp] theorem clearInterrupt_frameCount (s : State) (i : Fin 5) : (clearInterrupt i s).frameCount = s.frameCount := rfl
@[simp] theorem clearInterrupt_lastFrame (s : State) (i : Fin 5) : (clearInterrupt i s).lastFrame = s.lastFrame := rfl
@[simp] theorem clearInterrupt_hostQueue (s : State) (i : Fin 5) : (clearInterrupt i s).hostQueue = s.hostQueue := rfl
@[simp] theorem clearInterrupt_haltAgain (s : State) (i : Fin 5) : (clearInterrupt i s).haltAgain = s.haltAgain := rfl
@[simp] theorem clearInterrupt_freeCount (s : State) (i : Fin 5) : (clearInterrupt i s).freeCount = s.freeCount := rfl

@[simp] theorem hdmaStop_cpu (s : State) : (hdmaStop s).cpu = s.cpu := rfl
@[simp] theorem hdmaStop_irq (s : State) : (hdmaStop s).irq = s.irq := rfl
@[simp] theorem hdmaStop_timer (s : State) : (hdmaStop s).timer = s.timer := rfl
@[simp] theorem hdmaStop_serial (s : State) : (hdmaStop s).serial = s.serial := rfl
@[simp] theorem hdmaStop_joypad (s : State) : (hdmaStop s).joypad = s.joypad := rfl
@[simp] theorem hdmaStop_ppu (s : State) : (hdmaStop s).ppu = s.ppu := rfl
@[simp] theorem hdmaStop_colour (s : State) : (hdmaStop s).colour = { s.colour with hdmaActive := false } := rfl
@[simp] theorem hdmaStop_cart (s : State) : (hdmaStop s).cart = s.cart := rfl
@[simp] theorem hdmaStop_mem (s : State) : (hdmaStop s).mem = s.mem := rfl
@[simp] theorem hdmaStop_fb (s : State) : (hdmaStop s).fb = s.fb := rfl
@[simp] theorem hdmaStop_fault (s : State) : (hdmaStop s).fault = s.fault := rfl
@[simp] theorem hdmaStop_colorMode (s : State) : (hdmaStop s).colorMode = s.colorMode := rfl
@[simp] theorem hdmaStop_cfg (s : State) : (hdmaStop s).cfg = s.cfg := rfl
@[simp] theorem hdmaStop_frameCount (s : State) : (hdmaStop s).frameCount = s.frameCount := rfl
@[simp] theorem hdmaStop_lastFrame (s : State) : (hdmaStop s).lastFrame = s.lastFrame := rfl
@[simp] theorem hdmaStop_hostQueue (s : State) : (hdmaStop s).hostQueue = s.hostQueue := rfl
@[simp] theorem hdmaStop_haltAgain (s : State) : (hdmaStop s).haltAgain = s.haltAgain := rfl
@[simp] theorem hdmaStop_freeCount (s : State) : (hdmaStop s).freeCount = s.freeCount := rfl

@[simp] theorem startDraw_cpu (s : State) : (startDraw s).cpu = s.cpu := rfl
@[simp] theorem startDraw_irq (s : State) : (startDraw s).irq = s.irq := rfl
@[simp] theorem startDraw_timer (s : State) : (startDraw s).timer = s.timer := rfl
@[simp] theorem startDraw_serial (s : State) : (startDraw s).serial = s.serial := rfl
@[simp] theorem startDraw_joypad (s : State) : (startDraw s).joypad = s.joypad := rfl
@[simp] theorem startDraw_colour (s : State) : (startDraw s).colour = s.colour := rfl
@[simp] theorem startDraw_cart (s : State) : (startDraw s).cart = s.cart := rfl
@[simp] theorem startDraw_mem (s : State) : (startDraw s).mem = s.mem := rfl
@[simp] theorem startDraw_fb (s : State) : (startDraw s).fb = s.fb := rfl
@[simp] theorem startDraw_fault (s : State) : (startDraw s).fault = s.fault := rfl
@[simp] theorem startDraw_colorMode (s : State) : (startDraw s).colorMode = s.colorMode := rfl
@[simp] theorem startDraw_cfg (s : State) : (startDraw s).cfg = s.cfg := rfl
@[simp] theorem startDraw_frameCount (s : State) : (startDraw s).frameCount = s.frameCount := rfl
@[simp] theorem startDraw_lastFrame (s : State) : (startDraw s).lastFrame = s.lastFrame := rfl
@[simp] theorem startDraw_hostQueue (s : State) : (startDraw s).hostQueue = s.hostQueue := rfl
@[simp] theorem startDraw_haltAgain (s : State) : (startDraw s).haltAgain = s.haltAgain := rfl
@[simp] theorem startDraw_freeCount (s : State) : (startDraw s).freeCount = s.freeCount := rfl

@[simp] theorem ppuOff_cpu (s : State) : (ppuOff s).cpu = s.cpu := rfl
@[simp] theorem ppuOff_irq (s : State) : (ppuOff s).irq = s.irq := rfl
@[simp] theorem ppuOff_timer (s : State) : (ppuOff s).timer = s.timer := rfl
@[simp] theorem ppuOff_serial (s : State) : (ppuOff s).serial = s.serial := rfl
@[simp] theorem ppuOff_joypad (s : State) : (ppuOff s).joypad = s.joypad := rfl
@[simp] theorem ppuOff_colour (s : State) : (ppuOff s).colour = s.colour := rfl
@[simp] theorem ppuOff_cart (s : State) : (ppuOff s).cart = s.cart := rfl
@[simp] theorem ppuOff_mem (s : State) : (ppuOff s).mem = s.mem := rfl
@[simp] theorem ppuOff_fb (s : State) : (ppuOff s).fb = s.fb := rfl
@[simp] theorem ppuOff_fault (s : State) : (ppuOff s).fault = s.fault := rfl
@[simp] theorem ppuOff_colorMode (s : State) : (ppuOff s).colorMode = s.colorMode := rfl
@[simp] theorem ppuOff_cfg (s : State) : (ppuOff s).cfg = s.cfg := rfl
@[simp] theorem ppuOff_frameCount (s : State) : (ppuOff s).frameCount = s.frameCount := rfl
@[simp] theorem ppuOff_lastFrame (s : State) : (ppuOff s).lastFrame = s.lastFrame := rfl
@[simp] theorem ppuOff_hostQueue (s : State) : (ppuOff s).hostQueue = s.hostQueue := rfl
@[simp] theorem ppuOff_haltAgain (s : State) : (ppuOff s).haltAgain = s.haltAgain := rfl
@[simp] theorem ppuOff_freeCount (s : State) : (ppuOff s).freeCount = s.freeCount := rfl

@[simp] theorem setWram_cpu (s : State) (k : Nat) (v : Byte) : (setWram k v s).cpu = s.cpu := rfl
@[simp] theorem setWram_irq (s : State) (k : Nat) (v : Byte) : (setWram k v s).irq = s.irq := rfl
@[simp] theorem setWram_timer (s : State) (k : Nat) (v : Byte) : (setWram k v s).timer = s.timer := rfl
@[simp] theorem setWram_serial (s : State) (k : Nat) (v : Byte) : (setWram k v s).serial = s.serial := rfl
@[simp] theorem setWram_joypad (s : State) (k : Nat) (v : Byte) : (setWram k v s).joypad = s.joypad := rfl
@[simp] theorem setWram_ppu (s : State) (k : Nat) (v : Byte) : (setWram k v s).ppu = s.ppu := rfl
@[simp] theorem setWram_colour (s : State) (k : Nat) (v : Byte) : (setWram k v s).colour = s.colour := rfl
@[simp] theorem setWram_cart (s : State) (k : Nat) (v : Byte) : (setWram k v s).cart = s.cart := rfl
@[simp] theorem setWram_mem (s : State) (k : Nat) (v : Byte) : (setWram k v s).mem = { s.mem with wram := setByte s.mem.wram k v } := rfl
@[simp] theorem setWram_fb (s : State) (k : Nat) (v : Byte) : (setWram k v s).fb = s.fb := rfl
@[simp] theorem setWram_fault (s : State) (k : Nat) (v : Byte) : (setWram k v s).fault = s.fault := rfl
@[simp] theorem setWram_colorMode (s : State) (k : Nat) (v : Byte) : (setWram k v s).colorMode = s.colorMode := rfl
@[simp] theorem setWram_cfg (s : State) (k : Nat) (v : Byte) : (setWram k v s).cfg = s.cfg := rfl
@[simp] theorem setWram_frameCount (s : State) (k : Nat) (v : Byte) : (setWram k v s).frameCount = s.frameCount := rfl
@[simp] theorem setWram_lastFrame (s : State) (k : Nat) (v : Byte) : (setWram k v s).lastFrame = s.lastFrame := rfl
@[simp] theorem setWram_hostQueue (s : State) (k : Nat) (v : Byte) : (setWram k v s).hostQueue = s.hostQueue := rfl
@[simp] theorem setWram_haltAgain (s : State) (k : Nat) (v : Byte) : (setWram k v s).haltAgain = s.haltAgain := rfl
@[simp] theorem setWram_freeCount (s : State) (k : Nat) (v : Byte) : (setWram k v s).freeCount = s.freeCount := rfl

@[simp] theorem setOam_cpu (s : State) (k : Nat) (v : Byte) : (setOam k v s).cpu = s.cpu := rfl
@[simp] theorem setOam_irq (s : State) (k : Nat) (v : Byte) : (setOam k v s).irq = s.irq := rfl
@[simp] theorem setOam_timer (s : State) (k : Nat) (v : Byte) : (setOam k v s).timer = s.timer := rfl
@[simp] theorem setOam_serial (s : State) (k : Nat) (v : Byte) : (setOam k v s).serial = s.serial := rfl
@[simp] theorem setOam_joypad (s : State) (k : Nat) (v : Byte) : (setOam k v s).joypad = s.joypad := rfl
@[simp] theorem setOam_ppu (s : State) (k : Nat) (v : Byte) : (setOam k v s).ppu = s.ppu := rfl
@[simp] theorem setOam_colour (s : State) (k : Nat) (v : Byte) : (setOam k v s).colour = s.colour := rfl
@[simp] theorem setOam_cart (s : State) (k : Nat) (v : Byte) : (setOam k v s).cart = s.cart := rfl
@[simp] theorem setOam_mem (s : State) (k : Nat) (v : Byte) : (setOam k v s).mem = { s.mem with oam := setByte s.mem.oam k v } := rfl
@[simp] theorem setOam_fb (s : State) (k : Nat) (v : Byte) : (setOam k v s).fb = s.fb := rfl
@[simp] theorem setOam_fault (s : State) (k : Nat) (v : Byte) : (setOam k v s).fault = s.fault := rfl
@[simp] theorem setOam_colorMode (s : State) (k : Nat) (v : Byte) : (setOam k v s).colorMode = s.colorMode := rfl
@[simp] theorem setOam_cfg (s : State) (k : Nat) (v : Byte) : (setOam k v s).cfg = s.cfg := rfl
@[simp] theorem setOam_frameCount (s : State) (k : Nat) (v : Byte) : (setOam k v s).frameCount = s.frameCount := rfl
@[simp] theorem setOam_lastFrame (s : State) (k : Nat) (v : Byte) : (setOam k v s).lastFrame = s.lastFrame := rfl
@[simp] theorem setOam_hostQueue (s : State) (k : Nat) (v : Byte) : (setOam k v s).hostQueue = s.hostQueue := rfl
@[simp] theorem setOam_haltAgain (s : State) (k : Nat) (v : Byte) : (setOam k v s).haltAgain = s.haltAgain := rfl
@[simp] theorem setOam_freeCount (s : State) (k : Nat) (v : Byte) : (setOam k v s).freeCount = s.freeCount := rfl

@[simp] theorem setHram_cpu (s : State) (k : Nat) (v : Byte) : (setHram k v s).cpu = s.cpu := rfl
@[simp] theorem setHram_irq (s : State) (k : Nat) (v : Byte) : (setHram k v s).irq = s.irq := rfl
@[simp] theorem setHram_timer (s : State) (k : Nat) (v : Byte) : (setHram k v s).timer = s.timer := rfl
@[simp] theorem setHram_serial (s : State) (k : Nat) (v : Byte) : (setHram k v s).serial = s.serial := rfl
@[simp] theorem setHram_joypad (s : State) (k : Nat) (v : Byte) : (setHram k v s).joypad = s.joypad := rfl
@[simp] theorem setHram_ppu (s : State) (k : Nat) (v : Byte) : (setHram k v s).ppu = s.ppu := rfl
@[simp] theorem setHram_colour (s : State) (k : Nat) (v : Byte) : (setHram k v s).colour = s.colour := rfl
@[simp] theorem setHram_cart (s : State) (k : Nat) (v : Byte) : (setHram k v s).cart = s.cart := rfl
@[simp] theorem setHram_mem (s : State) (k : Nat) (v : Byte) : (setHram k v s).mem = { s.mem with hram := setByte s.mem.hram k v } := rfl
@[simp] theorem setHram_fb (s : State) (k : Nat) (v : Byte) : (setHram k v s).fb = s.fb := rfl
@[simp] theorem setHram_fault (s : State) (k : Nat) (v : Byte) : (setHram k v s).fault = s.fault := rfl
@[simp] theorem setHram_colorMode (s : State) (k : Nat) (v : Byte) : (setHram k v s).colorMode = s.colorMode := rfl
@[simp] theorem setHram_cfg (s : State) (k : Nat) (v : Byte) : (setHram k v s).cfg = s.cfg := rfl
@[simp] theorem setHram_frameCount (s : State) (k : Nat) (v : Byte) : (setHram k v s).frameCount = s.frameCount := rfl
@[simp] theorem setHram_lastFrame (s : State) (k : Nat) (v : Byte) : (setHram k v s).lastFrame = s.lastFrame := rfl
@[simp] theorem setHram_hostQueue (s : State) (k : Nat) (v : Byte) : (setHram k v s).hostQueue = s.hostQueue := rfl
@[simp] theorem setHram_haltAgain (s : State) (k : Nat) (v : Byte) : (setHram k v s).haltAgain = s.haltAgain := rfl
@[simp] theorem setHram_freeCount (s : State) (k : Nat) (v : Byte) : (setHram k v s).freeCount = s.freeCount := rfl

@[simp] theorem setCartRam_cpu (s : State) (k : Nat) (v : Byte) : (setCartRam k v s).cpu = s.cpu := rfl
@[simp] theorem setCartRam_irq (s : State) (k : Nat) (v : Byte) : (setCartRam k v s).irq = s.irq := rfl
@[simp] theorem setCartRam_timer (s : State) (k : Nat) (v : Byte) : (setCartRam k v s).timer = s.timer := rfl
@[simp] theorem setCartRam_serial (s : State) (k : Nat) (v : Byte) : (setCartRam k v s).serial = s.serial := rfl
@[simp] theorem setCartRam_joypad (s : State) (k : Nat) (v : Byte) : (setCartRam k v s).joypad = s.joypad := rfl
@[simp] theorem setCartRam_ppu (s : State) (k : Nat) (v : Byte) : (setCartRam k v s).ppu = s.ppu := rfl
@[simp] theorem setCartRam_colour (s : State) (k : Nat) (v : Byte) : (setCartRam k v s).colour = s.colour := rfl
@[simp] theorem setCartRam_cart (s : State) (k : Nat) (v : Byte) : (setCartRam k v s).cart = s.cart := rfl
@[simp] theorem setCartRam_mem (s : State) (k : Nat) (v : Byte) : (setCartRam k v s).mem = { s.mem with cartRam := setByte s.mem.cartRam k v } := rfl
@[simp] theorem setCartRam_fb (s : State) (k : Nat) (v : Byte) : (setCartRam k v s).fb = s.fb := rfl
@[simp] theorem setCartRam_fault (s : State) (k : Nat) (v : Byte) : (setCartRam k v s).fault = s.fault := rfl
@[simp] theorem setCartRam_colorMode (s : State) (k : Nat) (v : Byte) : (setCartRam k v s).colorMode = s.colorMode := rfl
@[simp] theorem setCartRam_cfg (s : State) (k : Nat) (v : Byte) : (setCartRam k v s).cfg = s.cfg := rfl
@[simp] theorem setCartRam_frameCount (s : State) (k : Nat) (v : Byte) : (setCartRam k v s).frameCount = s.frameCount := rfl
@[simp] theorem setCartRam_lastFrame (s : State) (k : Nat) (v : Byte) : (setCartRam k v s).lastFrame = s.lastFrame := rfl
@[simp] theorem setCartRam_hostQueue (s : State) (k : Nat) (v : Byte) : (setCartRam k v s).hostQueue = s.hostQueue := rfl
@[simp] theorem setCartRam_haltAgain (s : State) (k : Nat) (v : Byte) : (setCartRam k v s).haltAgain = s.haltAgain := rfl
@[simp] theorem setCartRam_freeCount (s : State) (k : Nat) (v : Byte) : (setCartRam k v s).freeCount = s.freeCount := rfl

@[simp] theorem setVram_cpu (s : State) (bank off : Nat) (v : Byte) : (setVram bank off v s).cpu = s.cpu := rfl
@[simp] theorem setVram_irq (s : State) (bank off : Nat) (v : Byte) : (setVram bank off v s).irq = s.irq := rfl
@[simp] theorem setVram_timer (s : State) (bank off : Nat) (v : Byte) : (setVram bank off v s).timer = s.timer := rfl
@[simp] theorem setVram_serial (s : State) (bank off : Nat) (v : Byte) : (setVram bank off v s).serial = s.serial := rfl
@[simp] theorem setVram_joypad (s : State) (bank off : Nat) (v : Byte) : (setVram bank off v s).joypad = s.joypad := rfl
@[simp] theorem setVram_ppu (s : State) (bank off : Nat) (v : Byte) : (setVram bank off v s).ppu = s.ppu := rfl
@[simp] theorem setVram_colour (s : State) (bank off : Nat) (v : Byte) : (setVram bank off v s).colour = s.colour := rfl
@[simp] theorem setVram_cart (s : State) (bank off : Nat) (v : Byte) : (setVram bank off v s).cart = s.cart := rfl
@[simp] theorem setVram_mem (s : State) (bank off : Nat) (v : Byte) : (setVram bank off v s).mem = { s.mem with vram := setByte s.mem.vram (8192 * bank + off) v } := rfl
@[simp] theorem setVram_fb (s : State) (bank off : Nat) (v : Byte) : (setVram bank off v s).fb = s.fb := rfl
@[simp] theorem setVram_fault (s : State) (bank off : Nat) (v : Byte) : (setVram bank off v s).fault = s.fault := rfl
@[simp] theorem setVram_colorMode (s : State) (bank off : Nat) (v : Byte) : (setVram bank off v s).colorMode = s.colorMode := rfl
@[simp] theorem setVram_cfg (s : State) (bank off : Nat) (v : Byte) : (setVram bank off v s).cfg = s.cfg := rfl
@[simp] theorem setVram_frameCount (s : State) (bank off : Nat) (v : Byte) : (setVram bank off v s).frameCount = s.frameCount := rfl
@[simp] theorem setVram_lastFrame (s : State) (bank off : Nat) (v : Byte) : (setVram bank off v s).lastFrame = s.lastFrame := rfl
@[simp] theorem setVram_hostQueue (s : State) (bank off : Nat) (v : Byte) : (setVram bank off v s).hostQueue = s.hostQueue := rfl
@[simp] theorem setVram_haltAgain (s : State) (bank off : Nat) (v : Byte) : (setVram bank off v s).haltAgain = s.haltAgain := rfl
@[simp] theorem setVram_freeCount (s : State) (bank off : Nat) (v : Byte) : (setVram bank off v s).freeCount = s.freeCount := rfl

@[simp] theorem blockDone_cpu (s : State) : (blockDone s).cpu = s.cpu := rfl
@[simp] theorem blockDone_irq (s : State) : (blockDone s).irq = s.irq := rfl
@[simp] theorem blockDone_timer (s : State) : (blockDone s).timer = s.timer := rfl
@[simp] theorem blockDone_serial (s : State) : (blockDone s).serial = s.serial := rfl
@[simp] theorem blockDone_joypad (s : State) : (blockDone s).joypad = s.joypad := rfl
@[simp] theorem blockDone_ppu (s : State) : (blockDone s).ppu = s.ppu := rfl
@[simp] theorem blockDone_cart (s : State) : (blockDone s).cart = s.cart := rfl
@[simp] theorem blockDone_mem (s : State) : (blockDone s).mem = s.mem := rfl
@[simp] theorem blockDone_fb (s : State) : (blockDone s).fb = s.fb := rfl
@[simp] theorem blockDone_fault (s : State) : (blockDone s).fault = s.fault := rfl
@[simp] theorem blockDone_colorMode (s : State) : (blockDone s).colorMode = s.colorMode := rfl
@[simp] theorem blockDone_cfg (s : State) : (blockDone s).cfg = s.cfg := rfl
@[simp] theorem blockDone_frameCount (s : State) : (blockDone s).frameCount = s.frameCount := rfl
@[simp] theorem blockDone_lastFrame (s : State) : (blockDone s).lastFrame = s.lastFrame := rfl
@[simp] theorem blockDone_hostQueue (s : State) : (blockDone s).hostQueue = s.hostQueue := rfl
@[simp] theorem blockDone_haltAgain (s : State) : (blockDone s).haltAgain = s.haltAgain := rfl
@[simp] theorem blockDone_freeCount (s : State) : (blockDone s).freeCount = s.freeCount := rfl

@[simp] theorem hdmaLoad_cpu (s : State) (v : Byte) : (hdmaLoad v s).cpu = s.cpu := rfl
@[simp] theorem hdmaLoad_irq (s : State) (v : Byte) : (hdmaLoad v s).irq = s.irq := rfl
@[simp] theorem hdmaLoad_timer (s : State) (v : Byte) : (hdmaLoad v s).timer = s.timer := rfl
@[simp] theorem hdmaLoad_serial (s : State) (v : Byte) : (hdmaLoad v s).serial = s.serial := rfl
@[simp] theorem hdmaLoad_joypad (s : State) (v : Byte) : (hdmaLoad v s).joypad = s.joypad := rfl
@[simp] theorem hdmaLoad_ppu (s : State) (v : Byte) : (hdmaLoad v s).ppu = s.ppu := rfl
@[simp] theorem hdmaLoad_cart (s : State) (v : Byte) : (hdmaLoad v s).cart = s.cart := rfl
@[simp] theorem hdmaLoad_mem (s : State) (v : Byte) : (hdmaLoad v s).mem = s.mem := rfl
@[simp] theorem hdmaLoad_fb (s : State) (v : Byte) : (hdmaLoad v s).fb = s.fb := rfl
@[simp] theorem hdmaLoad_fault (s : State) (v : Byte) : (hdmaLoad v s).fault = s.fault := rfl
@[simp] theorem hdmaLoad_colorMode (s : State) (v : Byte) : (hdmaLoad v s).colorMode = s.colorMode := rfl
@[simp] theorem hdmaLoad_cfg (s : State) (v : Byte) : (hdmaLoad v s).cfg = s.cfg := rfl
@[simp] theorem hdmaLoad_frameCount (s : State) (v : Byte) : (hdmaLoad v s).frameCount = s.frameCount := rfl
@[simp] theorem hdmaLoad_lastFrame (s : State) (v : Byte) : (hdmaLoad v s).lastFrame = s.lastFrame := rfl
@[simp] theorem hdmaLoad_hostQueue (s : State) (v : Byte) : (hdmaLoad v s).hostQueue = s.hostQueue := rfl
@[simp] theorem hdmaLoad_haltAgain (s : State) (v : Byte) : (hdmaLoad v s).haltAgain = s.haltAgain := rfl
@[simp] theorem hdmaLoad_freeCount (s : State) (v : Byte) : (hdmaLoad v s).freeCount = s.freeCount := rfl

/-! ### The register file -/

theorem Cpu.get8_set8_same (p : Cpu) (r : Reg8) (v : Byte) : (p.set8 r v).get8 r = v := by cases r <;> rfl

theorem Cpu.get8_set8_other (p : Cpu) (r q : Reg8) (v : Byte) (h : q ≠ r) : (p.set8 r v).get8 q = p.get8 q := by
  cases r <;> cases q <;> first | rfl | exact absurd rfl h

theorem toNat_joinBytes (hi lo : Byte) : (joinBytes hi lo).toNat = 256 * hi.toNat + lo.toNat := by
  have h := Nat.shiftLeft_add_eq_or_of_lt lo.isLt hi.toNat
  simp only [joinBytes, BitVec.toNat_append]
  rw [← h, Nat.shiftLeft_eq]
  omega

theorem toNat_highByte (v : Word) : (highByte v).toNat = v.toNat / 256 := by
  have h := v.isLt
  simp only [highByte, BitVec.extractLsb'_toNat, Nat.shiftRight_eq_div_pow]
  omega

theorem toNat_lowByte (v : Word) : (lowByte v).toNat = v.toNat % 256 := by
  simp [lowByte, BitVec.extractLsb'_toNat]

theorem joinBytes_high_low (v : Word) : joinBytes (highByte v) (lowByte v) = v := by
  apply BitVec.eq_of_toNat_eq
  rw [toNat_joinBytes, toNat_highByte, toNat_lowByte]
  omega

theorem highByte_joinBytes (hi lo : Byte) : highByte (joinBytes hi lo) = hi := by
  apply BitVec.eq_of_toNat_eq
  have h := lo.isLt
  rw [toNat_highByte, toNat_joinBytes]
  omega

theorem lowByte_joinBytes (hi lo : Byte) : lowByte (joinBytes hi lo) = lo := by
  apply BitVec.eq_of_toNat_eq
  have h := lo.isLt
  rw [toNat_lowByte, toNat_joinBytes]
  omega

theorem Cpu.get16_set16_same (p : Cpu) (rr : Reg16) (v : Word) : (p.set16 rr v).get16 rr = v := by
  cases rr <;> first | rfl | exact joinBytes_high_low v

theorem Cpu.get16_set16_other (p : Cpu) (rr q : Reg16) (v : Word) (h : q ≠ rr) : (p.set16 rr v).get16 q = p.get16 q := by
  cases rr <;> cases q <;> first | rfl | exact absurd rfl h

theorem Flags.ofByte_toByte (f : Flags) : Flags.ofByte f.toByte = f := by
  obtain ⟨z, n, h, c⟩ := f
  cases z <;> cases n <;> cases h <;> cases c <;> decide

end Sys2Proof.Machine
end

