-- ==== Sys2Proof/Laws/Frames.lean ====
section
/-!
SUPPORT. The frames of Safety.lean: they compose, and what an address shows depends on no clock-driven device.
-/

namespace Sys2Proof.Machine

/-! ### What an address shows -/

/-- Reads of addresses that are no device's registers depend on memory, the mapper, the bank registers, `IE` and the parameters only. -/
theorem busRead_congr {s u : State} {b : Word} (hb : deviceRegister s.colorMode b = false) (hmem : u.mem = s.mem)
    (hcart : u.cart = s.cart) (hcolour : u.colour = s.colour) (hmode : u.colorMode = s.colorMode) (hcfg : u.cfg = s.cfg)
    (hie : u.irq.ie = s.irq.ie) : busRead u b = busRead s b := by
  unfold deviceRegister at hb
  simp only [busRead, hmode, vramBank, wramBank, hmem, hcart, hcolour, hcfg, hie]
  split <;> simp_all

/-- Which byte a store changes depends on the mapper, the bank registers and the colour mode only. -/
theorem placeOf_congr {s u : State} (b : Word) (hcart : u.cart = s.cart) (hcolour : u.colour = s.colour)
    (hmode : u.colorMode = s.colorMode) : placeOf u b = placeOf s b := by
  simp only [placeOf, hmode, vramBank, wramBank, hcart, hcolour]

/-- Which addresses can be stored to depends on the mapper and the colour mode only. -/
theorem storable_congr {s u : State} (b : Word) (hcart : u.cart = s.cart) (hmode : u.colorMode = s.colorMode) :
    storable u b = storable s b := by
  simp only [storable, hmode, hcart]

/-- Which addresses can be read depends on the mapper and the colour mode only. -/
theorem readable_congr {s u : State} (b : Word) (hcart : u.cart = s.cart) (hmode : u.colorMode = s.colorMode) :
    readable u b = readable s b := by
  simp only [readable, busRead, hmode, hcart]
  split <;> split <;> simp_all <;> (repeat' split at *) <;> simp_all

theorem readable_byte {s : State} {a : Word} (h : readable s a = true) : ∃ v, busRead s a = .byte v := by
  unfold readable at h
  split at h
  · exact ⟨_, ‹_›⟩
  · cases h

/-- An address that can be stored to can be read. -/
theorem readable_of_storable {s : State} {a : Word} (h : storable s a = true) : readable s a = true := by
  unfold storable at h
  unfold readable busRead
  split <;> simp_all
  rename_i heq
  repeat' split at heq <;> simp_all

/-- An address that shows a byte of memory can be stored to, and is no device's register. -/
theorem storable_of_place {s : State} {a : Word} {p : MemPlace} (h : placeOf s a = some p) :
    storable s a = true ∧ deviceRegister s.colorMode a = false := by
  unfold placeOf at h
  unfold storable deviceRegister
  split at h <;> simp_all
  split at h <;> simp_all

/-! ### Composition -/

theorem SpecialsKept.refl (s : State) : SpecialsKept s s :=
  ⟨rfl, rfl, rfl, ⟨rfl, rfl⟩, ⟨rfl, rfl⟩, ⟨rfl, rfl, rfl, rfl⟩, ⟨rfl, rfl, rfl, rfl⟩, ⟨rfl, rfl, rfl⟩, rfl, rfl, rfl, rfl, rfl⟩

/-- A change of the CPU alone is no matter to the specials. -/
theorem SpecialsKept.ofWithCpu {s u : State} {p : Cpu} (h : SpecialsKept { s with cpu := p } u) : SpecialsKept s u :=
  ⟨h.cart, h.joypad, h.colour, h.timer, h.serial, h.ppuControl, h.ppuScroll, h.ppuPalettes, h.fault, h.colorMode, h.cfg, h.hostQueue,
    h.haltAgain⟩

theorem SpecialsKept.withCpu {s u : State} {p : Cpu} (h : SpecialsKept s u) : SpecialsKept s { u with cpu := p } :=
  ⟨h.cart, h.joypad, h.colour, h.timer, h.serial, h.ppuControl, h.ppuScroll, h.ppuPalettes, h.fault, h.colorMode, h.cfg, h.hostQueue,
    h.haltAgain⟩

theorem SpecialsKept.trans {s t u : State} (h : SpecialsKept s t) (k : SpecialsKept t u) : SpecialsKept s u where
  cart := k.cart.trans h.cart
  joypad := k.joypad.trans h.joypad
  colour := k.colour.trans h.colour
  timer := ⟨k.timer.1.trans h.timer.1, k.timer.2.trans h.timer.2⟩
  serial := ⟨k.serial.1.trans h.serial.1, k.serial.2.trans h.serial.2⟩
  ppuControl :=
    ⟨k.ppuControl.1.trans h.ppuControl.1, k.ppuControl.2.1.trans h.ppuControl.2.1, k.ppuControl.2.2.1.trans h.ppuControl.2.2.1,
      k.ppuControl.2.2.2.trans h.ppuControl.2.2.2⟩
  ppuScroll :=
    ⟨k.ppuScroll.1.trans h.ppuScroll.1, k.ppuScroll.2.1.trans h.ppuScroll.2.1, k.ppuScroll.2.2.1.trans h.ppuScroll.2.2.1,
      k.ppuScroll.2.2.2.trans h.ppuScroll.2.2.2⟩
  ppuPalettes :=
    ⟨k.ppuPalettes.1.trans h.ppuPalettes.1, k.ppuPalettes.2.1.trans h.ppuPalettes.2.1, k.ppuPalettes.2.2.trans h.ppuPalettes.2.2⟩
  fault := k.fault.trans h.fault
  colorMode := k.colorMode.trans h.colorMode
  cfg := k.cfg.trans h.cfg
  hostQueue := k.hostQueue.trans h.hostQueue
  haltAgain := k.haltAgain.trans h.haltAgain

/-- The four parts of `DeviceOnly` that give the fifth. -/
theorem DeviceOnly.of {s u : State} (cpu : u.cpu = s.cpu) (mem : u.mem = s.mem) (ie : u.irq.ie = s.irq.ie)
    (specials : SpecialsKept s u) : DeviceOnly s u where
  cpu := cpu
  mem := mem
  ie := ie
  memory := fun _ hb => busRead_congr hb mem specials.cart specials.colour specials.colorMode specials.cfg ie
  specials := specials

theorem DeviceOnly.refl (s : State) : DeviceOnly s s := .of rfl rfl rfl (.refl s)

theorem DeviceOnly.trans {s t u : State} (h : DeviceOnly s t) (k : DeviceOnly t u) : DeviceOnly s u :=
  .of (k.cpu.trans h.cpu) (k.mem.trans h.mem) (k.ie.trans h.ie) (h.specials.trans k.specials)

/-- A change of the CPU alone, put after moves of the devices, gives a frame over the changed state too. -/
theorem DeviceOnly.withCpu {s u : State} (h : DeviceOnly s u) (p : Cpu) : DeviceOnly { s with cpu := p } { u with cpu := p } :=
  .of rfl h.mem h.ie
    ⟨h.specials.cart, h.specials.joypad, h.specials.colour, h.specials.timer, h.specials.serial, h.specials.ppuControl,
      h.specials.ppuScroll, h.specials.ppuPalettes, h.specials.fault, h.specials.colorMode, h.specials.cfg, h.specials.hostQueue,
      h.specials.haltAgain⟩

theorem DeviceOnly.quiet {s u : State} (h : DeviceOnly s u) : quiet u = quiet s := by
  simp only [Machine.quiet, h.specials.colorMode, h.specials.colour]

theorem DeviceOnly.readable {s u : State} (h : DeviceOnly s u) (a : Word) : readable u a = readable s a :=
  readable_congr a h.specials.cart h.specials.colorMode

theorem DeviceOnly.storable {s u : State} (h : DeviceOnly s u) (a : Word) : storable u a = storable s a :=
  storable_congr a h.specials.cart h.specials.colorMode

theorem DeviceOnly.placeOf {s u : State} (h : DeviceOnly s u) (a : Word) : placeOf u a = placeOf s a :=
  placeOf_congr a h.specials.cart h.specials.colour h.specials.colorMode

end Sys2Proof.Machine
end

