-- ==== Sys2Proof/Laws/Result.lean ====
section
/-!
SUPPORT. Results: what holds of the state that an operation reaches, whether it ends or raises, and how that passes through a sequence.
-/

namespace Sys2Proof.Machine

variable {α β : Type}

/-- The state an operation reaches. -/
def Res.final : Res α → State
  | .ok _ s => s
  | .raised s => s

@[simp] theorem Res.final_ok (a : α) (s : State) : (Res.ok a s).final = s := rfl

@[simp] theorem Res.final_raised (s : State) : (Res.raised s : Res α).final = s := rfl

@[simp] theorem Res.ok_andThen (a : α) (s : State) (f : α → State → Res β) : (Res.ok a s).andThen f = f a s := rfl

@[simp] theorem Res.raised_andThen (s : State) (f : α → State → Res β) : (Res.raised s : Res α).andThen f = .raised s := rfl

/-- A sequence ends well exactly when both parts do. -/
theorem Res.andThen_eq_ok {r : Res α} {f : α → State → Res β} {b : β} {t : State} :
    r.andThen f = .ok b t ↔ ∃ a s, r = .ok a s ∧ f a s = .ok b t := by
  constructor
  · intro h
    cases r with
    | ok a s => exact ⟨a, s, rfl, h⟩
    | raised s => cases h
  · rintro ⟨a, s, rfl, h⟩
    exact h

/-- What holds after the first part, and is kept by the second, holds after a sequence. -/
theorem Res.andThen_final {P : State → Prop} {r : Res α} {f : α → State → Res β} (hr : P r.final)
    (hf : ∀ a s, r = .ok a s → P s → P (f a s).final) : P (r.andThen f).final := by
  cases r with
  | ok a s => exact hf a s rfl hr
  | raised s => exact hr

/-- What one round keeps, every number of rounds keeps. -/
theorem repeatRes_final {P : State → Prop} {f : State → Res Unit} (hf : ∀ s, P s → P (f s).final) (n : Nat) (s : State) (h : P s) :
    P (repeatRes f n s).final := by
  induction n generalizing s with
  | zero => exact h
  | succ n ih => exact Res.andThen_final (hf s h) fun _ t _ ht => ih t ht

/-- Where every round from a state with `P` ends well in a state with `P`, every number of rounds does. -/
theorem repeatRes_ok {P : State → Prop} {f : State → Res Unit} (hf : ∀ s, P s → ∃ t, f s = .ok () t ∧ P t) (n : Nat) (s : State)
    (h : P s) : ∃ t, repeatRes f n s = .ok () t ∧ P t := by
  induction n generalizing s with
  | zero => exact ⟨s, rfl, h⟩
  | succ n ih =>
    obtain ⟨t, ht, hp⟩ := hf s h
    obtain ⟨u, hu, hq⟩ := ih t hp
    exact ⟨u, by rw [repeatRes, ht]; exact hu, hq⟩

/-- Raising a fault sets the record and nothing else. -/
@[simp] theorem raiseFault_final (f : Fault) (s : State) : (raiseFault f s : Res α).final = { s with fault := some f } := rfl

/-- A meaning that ends an operation answers the state the operation reaches. -/
@[simp] theorem finish_eq (r : Res Unit) : finish r = .next r.final := by cases r <;> rfl

end Sys2Proof.Machine
end

