-- ==== Sys2Proof/Laws/Tick.lean ====
section
/-!
SUPPORT. The tick: what every tick leaves alone, and that a tick of a machine with no paced VRAM DMA ends well and moves the
clock-driven devices only.
-/

namespace Sys2Proof.Machine

/-! ### The parts of a tick move devices only -/

/-- A state whose clock-driven devices, frame buffer and event counters alone differ. -/
theorem DeviceOnly.moved (s : State) (f : BitVec 5) (t : Timer) (ht : t.tma = s.timer.tma ∧ t.tac = s.timer.tac) (k : Nat) (p : Ppu)
    (control : p.lcdc = s.ppu.lcdc ∧ p.stat = s.ppu.stat ∧ p.lyc = s.ppu.lyc ∧ p.dma = s.ppu.dma)
    (scroll : p.scy = s.ppu.scy ∧ p.scx = s.ppu.scx ∧ p.wy = s.ppu.wy ∧ p.wx = s.ppu.wx)
    (palettes : p.bgp = s.ppu.bgp ∧ p.obp0 = s.ppu.obp0 ∧ p.obp1 = s.ppu.obp1) (fb : List (Nat × Pixel)) (n m : Nat)
    (lf : Option (List (Nat × Pixel))) :
    DeviceOnly s
      { s with
        irq := { s.irq with iflag := f }, timer := t, serial := { s.serial with cnt := k }, ppu := p, fb := fb, frameCount := n,
        lastFrame := lf, freeCount := m } :=
  .of rfl rfl rfl ⟨rfl, rfl, rfl, ht, ⟨rfl, rfl⟩, control, scroll, palettes, rfl, rfl, rfl, rfl, rfl⟩

/-- The same for the registers and the position of the PPU alone. -/
theorem DeviceOnly.movedPpu (s : State) (p : Ppu)
    (control : p.lcdc = s.ppu.lcdc ∧ p.stat = s.ppu.stat ∧ p.lyc = s.ppu.lyc ∧ p.dma = s.ppu.dma)
    (scroll : p.scy = s.ppu.scy ∧ p.scx = s.ppu.scx ∧ p.wy = s.ppu.wy ∧ p.wx = s.ppu.wx)
    (palettes : p.bgp = s.ppu.bgp ∧ p.obp0 = s.ppu.obp0 ∧ p.obp1 = s.ppu.obp1) : DeviceOnly s { s with ppu := p } :=
  .moved s s.irq.iflag s.timer ⟨rfl, rfl⟩ s.serial.cnt p control scroll palettes s.fb s.frameCount s.freeCount s.lastFrame

/-- The same for the timer alone. -/
theorem DeviceOnly.movedTimer (s : State) (t : Timer) (ht : t.tma = s.timer.tma ∧ t.tac = s.timer.tac) :
    DeviceOnly s { s with timer := t } :=
  .moved s s.irq.iflag t ht s.serial.cnt s.ppu ⟨rfl, rfl, rfl, rfl⟩ ⟨rfl, rfl, rfl, rfl⟩ ⟨rfl, rfl, rfl⟩ s.fb s.frameCount s.freeCount
    s.lastFrame

theorem requestInterrupt_device (i : Fin 5) (s : State) : DeviceOnly s (requestInterrupt i s) :=
  .moved s _ s.timer ⟨rfl, rfl⟩ s.serial.cnt s.ppu ⟨rfl, rfl, rfl, rfl⟩ ⟨rfl, rfl, rfl, rfl⟩ ⟨rfl, rfl, rfl⟩ s.fb s.frameCount
    s.freeCount s.lastFrame

theorem enterMode_device (m : PpuMode) (s : State) : DeviceOnly s (enterMode m s) := by
  have h : DeviceOnly s { s with ppu := { s.ppu with mode := m } } :=
    .movedPpu s _ ⟨rfl, rfl, rfl, rfl⟩ ⟨rfl, rfl, rfl, rfl⟩ ⟨rfl, rfl, rfl⟩
  unfold enterMode
  cases m <;> dsimp only <;> split <;> first | exact h | exact h.trans (requestInterrupt_device 1 _)

theorem lineCompare_device (s : State) : DeviceOnly s (lineCompare s) := by
  unfold lineCompare
  split
  · exact requestInterrupt_device 1 s
  · exact .refl s

theorem startDraw_device (s : State) : DeviceOnly s (startDraw s) :=
  .movedPpu s _ ⟨rfl, rfl, rfl, rfl⟩ ⟨rfl, rfl, rfl, rfl⟩ ⟨rfl, rfl, rfl⟩

theorem fetchRowAt_device (map px py : Nat) (s : State) : DeviceOnly s (fetchRowAt map px py s) :=
  .movedPpu s _ ⟨rfl, rfl, rfl, rfl⟩ ⟨rfl, rfl, rfl, rfl⟩ ⟨rfl, rfl, rfl⟩

theorem fetchRow_device (x y : Nat) (s : State) : DeviceOnly s (fetchRow x y s) := by
  unfold fetchRow
  split
  · split
    · exact fetchRowAt_device _ _ _ s
    · exact .of rfl rfl rfl
        ⟨rfl, rfl, rfl, ⟨rfl, rfl⟩, ⟨rfl, rfl⟩, ⟨rfl, rfl, rfl, rfl⟩, ⟨rfl, rfl, rfl, rfl⟩, ⟨rfl, rfl, rfl⟩, rfl, rfl, rfl, rfl, rfl⟩
  · exact fetchRowAt_device _ _ _ s

theorem windowSwitch_device (x y : Nat) (s : State) : DeviceOnly s (windowSwitch x y s) := by
  unfold windowSwitch
  split
  · exact .movedPpu s _ ⟨rfl, rfl, rfl, rfl⟩ ⟨rfl, rfl, rfl, rfl⟩ ⟨rfl, rfl, rfl⟩
  · exact .refl s

theorem laneFetch_device (x y : Nat) (s : State) : DeviceOnly s (laneFetch x y s) := by
  unfold laneFetch refetchRow
  refine (windowSwitch_device x y s).trans ?_
  split
  · exact (fetchRow_device x y _).trans (.movedPpu _ _ ⟨rfl, rfl, rfl, rfl⟩ ⟨rfl, rfl, rfl, rfl⟩ ⟨rfl, rfl, rfl⟩)
  · exact .refl _

theorem emitPixel_device (s : State) : DeviceOnly s (emitPixel s) := by
  refine (laneFetch_device s.ppu.lx s.ppu.ly.toNat s).trans ?_
  exact .of rfl rfl rfl
    ⟨rfl, rfl, rfl, ⟨rfl, rfl⟩, ⟨rfl, rfl⟩, ⟨rfl, rfl, rfl, rfl⟩, ⟨rfl, rfl, rfl, rfl⟩, ⟨rfl, rfl, rfl⟩, rfl, rfl, rfl, rfl, rfl⟩

theorem dotWork_device (s : State) : DeviceOnly s (dotWork s) := by
  unfold dotWork
  split
  · split
    · exact emitPixel_device s
    · exact .movedPpu s _ ⟨rfl, rfl, rfl, rfl⟩ ⟨rfl, rfl, rfl, rfl⟩ ⟨rfl, rfl, rfl⟩
  · exact .refl s

theorem dotAdvance_device (s : State) : DeviceOnly s (dotAdvance s) := by
  unfold dotAdvance endLine frameReady
  split
  · split <;> refine DeviceOnly.trans ?_ (lineCompare_device _)
    · exact .of rfl rfl rfl
        ⟨rfl, rfl, rfl, ⟨rfl, rfl⟩, ⟨rfl, rfl⟩, ⟨rfl, rfl, rfl, rfl⟩, ⟨rfl, rfl, rfl, rfl⟩, ⟨rfl, rfl, rfl⟩, rfl, rfl, rfl, rfl, rfl⟩
    · exact .movedPpu s _ ⟨rfl, rfl, rfl, rfl⟩ ⟨rfl, rfl, rfl, rfl⟩ ⟨rfl, rfl, rfl⟩
  · exact .movedPpu s _ ⟨rfl, rfl, rfl, rfl⟩ ⟨rfl, rfl, rfl, rfl⟩ ⟨rfl, rfl, rfl⟩

theorem dividerTick_device (s : State) : DeviceOnly s (dividerTick s) := by
  unfold dividerTick
  dsimp only
  split <;> exact .movedTimer s _ ⟨rfl, rfl⟩

theorem timaIncrement_device (s : State) : DeviceOnly s (timaIncrement s) := by
  unfold timaIncrement
  split
  · exact .trans (.movedTimer s { s.timer with tima := s.timer.tma } ⟨rfl, rfl⟩) (requestInterrupt_device 2 _)
  · exact .movedTimer s _ ⟨rfl, rfl⟩

theorem counterTick_device (s : State) : DeviceOnly s (counterTick s) := by
  unfold counterTick
  dsimp only
  split
  · split
    · exact .trans (.movedTimer s { s.timer with tCnt := 0 } ⟨rfl, rfl⟩) (timaIncrement_device _)
    · exact .movedTimer s _ ⟨rfl, rfl⟩
  · exact .refl s

theorem timerTick_device (s : State) : DeviceOnly s (timerTick s) := (dividerTick_device s).trans (counterTick_device _)

theorem serialTick_device (s : State) : DeviceOnly s (serialTick s) := by
  have h (n : Nat) : DeviceOnly s { s with serial := { s.serial with cnt := n } } :=
    .moved s s.irq.iflag s.timer ⟨rfl, rfl⟩ n s.ppu ⟨rfl, rfl, rfl, rfl⟩ ⟨rfl, rfl, rfl, rfl⟩ ⟨rfl, rfl, rfl⟩ s.fb s.frameCount
      s.freeCount s.lastFrame
  unfold serialTick
  dsimp only
  split
  · exact .refl s
  · split
    · exact (h _).trans (requestInterrupt_device 3 _)
    · exact h _

/-! ### A tick with no paced VRAM DMA -/

theorem hBlankDma_quiet {s : State} (h : quiet s = true) : hBlankDma s = .ok () s := by
  unfold hBlankDma
  rw [if_neg]
  rintro ⟨h1, h2⟩
  simp [quiet, h1, h2] at h

theorem ppuDot_quiet {s : State} (h : quiet s = true) : ∃ u, ppuDot s = .ok () u ∧ DeviceOnly s u := by
  unfold ppuDot
  split
  · have hd := (dotWork_device s).trans (dotAdvance_device _)
    generalize dotAdvance (dotWork s) = t at hd
    unfold dotModes
    split
    · exact ⟨_, rfl, hd⟩
    · exact ⟨_, rfl, hd.trans (enterMode_device _ _)⟩
    · exact ⟨_, rfl, (hd.trans (startDraw_device _)).trans (enterMode_device _ _)⟩
    · have he := hd.trans (enterMode_device .hBlank _)
      exact ⟨_, hBlankDma_quiet (he.quiet.trans h), he⟩
    · exact ⟨_, rfl, (hd.trans (enterMode_device _ _)).trans (requestInterrupt_device _ _)⟩
  · exact ⟨s, rfl, .refl s⟩

/-- A tick with no paced VRAM DMA armed ends well and moves the clock-driven devices only. -/
theorem tick_quiet {s : State} (h : quiet s = true) : ∃ u, tick s = .ok () u ∧ DeviceOnly s u := by
  obtain ⟨t, ht, hd⟩ := repeatRes_ok (P := fun t => DeviceOnly s t) (f := ppuDot)
    (fun a ha => by
      obtain ⟨u, hu, hk⟩ := ppuDot_quiet (ha.quiet.trans h)
      exact ⟨u, hu, ha.trans hk⟩) s.cfg.dotsPerTick s (.refl s)
  refine ⟨serialTick (timerTick t), ?_, (hd.trans (timerTick_device t)).trans (serialTick_device _)⟩
  unfold tick
  rw [ht]
  rfl

/-- The same as a `Ticks`. -/
theorem tick_ticks {s : State} (h : quiet s = true) : ∃ u, Ticks s u := by
  obtain ⟨u, hu, hd⟩ := tick_quiet h
  exact ⟨u, hu, hd⟩

/-- Any number of ticks with no paced VRAM DMA armed. -/
theorem ticks_quiet {s : State} (n : Nat) (h : quiet s = true) : ∃ u, ticks n s = .ok () u ∧ DeviceOnly s u :=
  repeatRes_ok (P := fun t => DeviceOnly s t)
    (fun a ha => by
      obtain ⟨u, hu, hk⟩ := tick_quiet (ha.quiet.trans h)
      exact ⟨u, hu, ha.trans hk⟩) n s (.refl s)

/-! ### Every tick, a paced VRAM DMA and its faults included -/

/-- What no tick changes: everything but the clock-driven devices, video memory, the running state of the VRAM DMA, and the fault
record. -/
structure ClockKept (s u : State) : Prop where
  cpu : u.cpu = s.cpu
  cart : u.cart = s.cart
  joypad : u.joypad = s.joypad
  ie : u.irq.ie = s.irq.ie
  colorMode : u.colorMode = s.colorMode
  cfg : u.cfg = s.cfg
  hostQueue : u.hostQueue = s.hostQueue
  haltAgain : u.haltAgain = s.haltAgain
  mem : u.mem = { s.mem with vram := u.mem.vram }
  lcdc : u.ppu.lcdc = s.ppu.lcdc

theorem ClockKept.refl (s : State) : ClockKept s s := ⟨rfl, rfl, rfl, rfl, rfl, rfl, rfl, rfl, rfl, rfl⟩

theorem ClockKept.trans {s t u : State} (h : ClockKept s t) (k : ClockKept t u) : ClockKept s u :=
  ⟨k.cpu.trans h.cpu, k.cart.trans h.cart, k.joypad.trans h.joypad, k.ie.trans h.ie, k.colorMode.trans h.colorMode,
    k.cfg.trans h.cfg, k.hostQueue.trans h.hostQueue, k.haltAgain.trans h.haltAgain, by rw [k.mem, h.mem], k.lcdc.trans h.lcdc⟩

theorem DeviceOnly.clockKept {s u : State} (h : DeviceOnly s u) : ClockKept s u :=
  ⟨h.cpu, h.specials.cart, h.specials.joypad, h.ie, h.specials.colorMode, h.specials.cfg, h.specials.hostQueue, h.specials.haltAgain, by rw [h.mem],
    h.specials.ppuControl.1⟩

theorem copyBytes_clockKept (k i : Nat) (s : State) : ClockKept s (copyBytes k i s).final := by
  induction k generalizing i s with
  | zero => exact .refl s
  | succ k ih =>
    simp only [copyBytes]
    split
    · refine ClockKept.trans ?_ (ih (i + 1) _)
      exact ⟨rfl, rfl, rfl, rfl, rfl, rfl, rfl, rfl, rfl, rfl⟩
    · exact ⟨rfl, rfl, rfl, rfl, rfl, rfl, rfl, rfl, rfl, rfl⟩

theorem copyBlock_clockKept (s : State) : ClockKept s (copyBlock s).final :=
  Res.andThen_final (P := fun t => ClockKept s t) (copyBytes_clockKept 16 0 s) fun _ t _ ht =>
    ht.trans (u := blockDone t) ⟨rfl, rfl, rfl, rfl, rfl, rfl, rfl, rfl, rfl, rfl⟩

theorem hBlankDma_clockKept (s : State) : ClockKept s (hBlankDma s).final := by
  unfold hBlankDma
  split
  · refine Res.andThen_final (P := fun t => ClockKept s t) (copyBlock_clockKept s) fun _ t _ ht => ?_
    dsimp only [Res.final]
    split
    · exact ht.trans (u := hdmaStop t) ⟨rfl, rfl, rfl, rfl, rfl, rfl, rfl, rfl, rfl, rfl⟩
    · exact ht
  · exact .refl s

theorem ppuDot_clockKept (s : State) : ClockKept s (ppuDot s).final := by
  unfold ppuDot
  split
  · have hd := ((dotWork_device s).trans (dotAdvance_device _)).clockKept
    generalize dotAdvance (dotWork s) = t at hd
    unfold dotModes
    split
    · exact hd
    · exact hd.trans (enterMode_device .oamScan t).clockKept
    · exact hd.trans ((startDraw_device t).trans (enterMode_device .draw _)).clockKept
    · exact (hd.trans (enterMode_device .hBlank _).clockKept).trans (hBlankDma_clockKept _)
    · exact hd.trans ((enterMode_device .vBlank t).trans (requestInterrupt_device 0 _)).clockKept
  · exact .refl s

/-- What no tick changes, however it ends. -/
theorem tick_clockKept (s : State) : ClockKept s (tick s).final := by
  refine Res.andThen_final (P := fun t => ClockKept s t)
    (repeatRes_final (fun t ht => ht.trans (ppuDot_clockKept t)) s.cfg.dotsPerTick s (.refl s)) fun _ t _ ht => ?_
  exact ht.trans ((timerTick_device t).trans (serialTick_device _)).clockKept

end Sys2Proof.Machine
end

