-- ==== Sys2Proof/Laws/Canonical.lean ====
section
/-!
SUPPORT. The canonical form of memory (`Memory.wf`, `memoryCanonical`): every memory operation keeps it, however it ends, and it holds
right after power-up.
-/

namespace Sys2Proof.Machine

/-! ### The parts of the form -/

theorem memory_wf_iff (m : Memory) :
    m.wf = true ↔
      cellsWf unlistedByte m.rom = true ∧ cellsWf unlistedByte m.wram = true ∧ cellsWf unlistedByte m.vram = true ∧
        cellsWf unlistedByte m.oam = true ∧ cellsWf unlistedByte m.hram = true ∧ cellsWf unlistedByte m.cartRam = true ∧
        cellsWf unlistedByte m.bgCram = true ∧ cellsWf unlistedByte m.objCram = true ∧ cellsWf unlistedByte m.audio = true := by
  simp only [Memory.wf, Bool.and_eq_true, and_assoc]

/-- The form depends on memory, the frame buffer and the last frame only. -/
theorem memoryCanonical_congr {s u : State} (hm : u.mem = s.mem) (hf : u.fb = s.fb) (hl : u.lastFrame = s.lastFrame)
    (h : memoryCanonical s = true) : memoryCanonical u = true := by
  simpa only [memoryCanonical, hm, hf, hl] using h

/-- The form with another memory that has it. -/
theorem memoryCanonical_mem {s : State} {m : Memory} (hm : m.wf = true) (h : memoryCanonical s = true) :
    memoryCanonical { s with mem := m } = true := by
  simp only [memoryCanonical, Bool.and_eq_true] at h ⊢
  exact ⟨⟨hm, h.1.2⟩, h.2⟩

theorem memoryCanonical_wf {s : State} (h : memoryCanonical s = true) : s.mem.wf = true := by
  simp only [memoryCanonical, Bool.and_eq_true] at h
  exact h.1.1

/-! ### Stores to an array -/

theorem setVram_canonical (bank off : Nat) (v : Byte) {s : State} (h : memoryCanonical s = true) :
    memoryCanonical (setVram bank off v s) = true := by
  refine memoryCanonical_mem ?_ h
  have := (memory_wf_iff s.mem).mp (memoryCanonical_wf h)
  rw [memory_wf_iff]
  exact ⟨this.1, this.2.1, cellsWf_setByte _ _ _ this.2.2.1, this.2.2.2⟩

theorem setWram_canonical (k : Nat) (v : Byte) {s : State} (h : memoryCanonical s = true) : memoryCanonical (setWram k v s) = true := by
  refine memoryCanonical_mem ?_ h
  have := (memory_wf_iff s.mem).mp (memoryCanonical_wf h)
  rw [memory_wf_iff]
  exact ⟨this.1, cellsWf_setByte _ _ _ this.2.1, this.2.2⟩

theorem setOam_canonical (k : Nat) (v : Byte) {s : State} (h : memoryCanonical s = true) : memoryCanonical (setOam k v s) = true := by
  refine memoryCanonical_mem ?_ h
  have := (memory_wf_iff s.mem).mp (memoryCanonical_wf h)
  rw [memory_wf_iff]
  exact ⟨this.1, this.2.1, this.2.2.1, cellsWf_setByte _ _ _ this.2.2.2.1, this.2.2.2.2⟩

theorem setHram_canonical (k : Nat) (v : Byte) {s : State} (h : memoryCanonical s = true) : memoryCanonical (setHram k v s) = true := by
  refine memoryCanonical_mem ?_ h
  have := (memory_wf_iff s.mem).mp (memoryCanonical_wf h)
  rw [memory_wf_iff]
  exact ⟨this.1, this.2.1, this.2.2.1, this.2.2.2.1, cellsWf_setByte _ _ _ this.2.2.2.2.1, this.2.2.2.2.2⟩

theorem setCartRam_canonical (k : Nat) (v : Byte) {s : State} (h : memoryCanonical s = true) :
    memoryCanonical (setCartRam k v s) = true := by
  refine memoryCanonical_mem ?_ h
  have := (memory_wf_iff s.mem).mp (memoryCanonical_wf h)
  rw [memory_wf_iff]
  exact ⟨this.1, this.2.1, this.2.2.1, this.2.2.2.1, this.2.2.2.2.1, cellsWf_setByte _ _ _ this.2.2.2.2.2.1, this.2.2.2.2.2.2⟩

theorem writeBcpd_canonical (v : Byte) {s : State} (h : memoryCanonical s = true) : memoryCanonical (writeBcpd v s) = true := by
  have := (memory_wf_iff s.mem).mp (memoryCanonical_wf h)
  refine memoryCanonical_congr (s := { s with mem := (writeBcpd v s).mem }) rfl rfl rfl (memoryCanonical_mem ?_ h)
  rw [memory_wf_iff]
  exact ⟨this.1, this.2.1, this.2.2.1, this.2.2.2.1, this.2.2.2.2.1, this.2.2.2.2.2.1, cellsWf_setByte _ _ _ this.2.2.2.2.2.2.1,
    this.2.2.2.2.2.2.2⟩

theorem writeOcpd_canonical (v : Byte) {s : State} (h : memoryCanonical s = true) : memoryCanonical (writeOcpd v s) = true := by
  have := (memory_wf_iff s.mem).mp (memoryCanonical_wf h)
  refine memoryCanonical_congr (s := { s with mem := (writeOcpd v s).mem }) rfl rfl rfl (memoryCanonical_mem ?_ h)
  rw [memory_wf_iff]
  exact ⟨this.1, this.2.1, this.2.2.1, this.2.2.2.1, this.2.2.2.2.1, this.2.2.2.2.2.1, this.2.2.2.2.2.2.1,
    cellsWf_setByte _ _ _ this.2.2.2.2.2.2.2.1, this.2.2.2.2.2.2.2.2⟩

theorem setAudio_canonical (i : Nat) (v : Byte) {s : State} (h : memoryCanonical s = true) :
    memoryCanonical { s with mem := { s.mem with audio := setByte s.mem.audio i v } } = true := by
  refine memoryCanonical_mem ?_ h
  have := (memory_wf_iff s.mem).mp (memoryCanonical_wf h)
  rw [memory_wf_iff]
  exact ⟨this.1, this.2.1, this.2.2.1, this.2.2.2.1, this.2.2.2.2.1, this.2.2.2.2.2.1, this.2.2.2.2.2.2.1, this.2.2.2.2.2.2.2.1,
    cellsWf_setByte _ _ _ this.2.2.2.2.2.2.2.2⟩

/-! ### The frame buffer -/

/-- Neither the fetching of a tile row, nor a mode entry, nor a line compare touches the frame buffer. -/
theorem laneFetch_frame (x y : Nat) (s : State) : (laneFetch x y s).fb = s.fb ∧ (laneFetch x y s).lastFrame = s.lastFrame := by
  have hw : ∀ t : State, (windowSwitch x y t).fb = t.fb ∧ (windowSwitch x y t).lastFrame = t.lastFrame := fun t => by
    unfold windowSwitch
    split <;> exact ⟨rfl, rfl⟩
  have hf : ∀ t : State, (fetchRow x y t).fb = t.fb ∧ (fetchRow x y t).lastFrame = t.lastFrame := fun t => by
    unfold fetchRow
    split
    · split <;> exact ⟨rfl, rfl⟩
    · exact ⟨rfl, rfl⟩
  unfold laneFetch refetchRow
  split
  · exact ⟨(hf _).1.trans (hw s).1, (hf _).2.trans (hw s).2⟩
  · exact hw s

theorem enterMode_frame (m : PpuMode) (s : State) :
    (enterMode m s).mem = s.mem ∧ (enterMode m s).fb = s.fb ∧ (enterMode m s).lastFrame = s.lastFrame := by
  unfold enterMode
  cases m <;> dsimp only <;> split <;> exact ⟨rfl, rfl, rfl⟩

theorem enterMode_canonical (m : PpuMode) {s : State} (h : memoryCanonical s = true) : memoryCanonical (enterMode m s) = true :=
  memoryCanonical_congr (enterMode_frame m s).1 (enterMode_frame m s).2.1 (enterMode_frame m s).2.2 h

theorem emitPixel_canonical {s : State} (h : memoryCanonical s = true) : memoryCanonical (emitPixel s) = true := by
  have hd := laneFetch_device s.ppu.lx s.ppu.ly.toNat s
  have hf := laneFetch_frame s.ppu.lx s.ppu.ly.toNat s
  have ht : memoryCanonical (laneFetch s.ppu.lx s.ppu.ly.toNat s) = true := memoryCanonical_congr hd.mem hf.1 hf.2 h
  simp only [memoryCanonical, Bool.and_eq_true] at ht ⊢
  exact ⟨⟨ht.1.1, cellsWf_set _ _ _ _ ht.1.2⟩, ht.2⟩

theorem dotWork_canonical {s : State} (h : memoryCanonical s = true) : memoryCanonical (dotWork s) = true := by
  unfold dotWork
  split
  · split
    · exact emitPixel_canonical h
    · exact memoryCanonical_congr (s := s) rfl rfl rfl h
  · exact h

theorem dotAdvance_canonical {s : State} (h : memoryCanonical s = true) : memoryCanonical (dotAdvance s) = true := by
  have hl : ∀ t : State, memoryCanonical t = true → memoryCanonical (lineCompare t) = true := fun t ht => by
    unfold lineCompare
    split
    · exact memoryCanonical_congr (s := t) rfl rfl rfl ht
    · exact ht
  unfold dotAdvance endLine
  split
  · split
    · refine hl _ ?_
      simp only [memoryCanonical, frameReady, Bool.and_eq_true] at h ⊢
      exact ⟨h.1, h.1.2⟩
    · exact hl _ (memoryCanonical_congr (s := s) rfl rfl rfl h)
  · exact memoryCanonical_congr (s := s) rfl rfl rfl h

/-! ### The clock -/

theorem copyBytes_canonical (k i : Nat) {s : State} (h : memoryCanonical s = true) : memoryCanonical (copyBytes k i s).final = true := by
  induction k generalizing i s with
  | zero => exact h
  | succ k ih =>
    simp only [copyBytes]
    split
    · exact ih (i + 1) (setVram_canonical _ _ _ h)
    · exact memoryCanonical_congr (s := s) rfl rfl rfl h

theorem copyBlock_canonical {s : State} (h : memoryCanonical s = true) : memoryCanonical (copyBlock s).final = true :=
  Res.andThen_final (P := fun t => memoryCanonical t = true) (copyBytes_canonical 16 0 h) fun _ t _ ht =>
    memoryCanonical_congr (s := t) (u := blockDone t) rfl rfl rfl ht

theorem hBlankDma_canonical {s : State} (h : memoryCanonical s = true) : memoryCanonical (hBlankDma s).final = true := by
  unfold hBlankDma
  split
  · refine Res.andThen_final (P := fun t => memoryCanonical t = true) (copyBlock_canonical h) fun _ t _ ht => ?_
    dsimp only [Res.final]
    split
    · exact memoryCanonical_congr (s := t) (u := hdmaStop t) rfl rfl rfl ht
    · exact ht
  · exact h

theorem vBlankStart_canonical {t : State} (h : memoryCanonical t = true) :
    memoryCanonical (requestInterrupt 0 (enterMode .vBlank t)) = true :=
  memoryCanonical_congr (s := enterMode .vBlank t) (u := requestInterrupt 0 (enterMode .vBlank t)) rfl rfl rfl
    (enterMode_canonical .vBlank h)

theorem startDraw_canonical {t : State} (h : memoryCanonical t = true) : memoryCanonical (startDraw t) = true :=
  memoryCanonical_congr (s := t) (u := startDraw t) rfl rfl rfl h

theorem dotModes_canonical {t : State} (h : memoryCanonical t = true) : memoryCanonical (dotModes t).final = true := by
  unfold dotModes
  split <;> simp only [Res.final]
  · exact h
  · exact enterMode_canonical .oamScan h
  · exact enterMode_canonical .draw (startDraw_canonical h)
  · exact hBlankDma_canonical (enterMode_canonical .hBlank h)
  · exact vBlankStart_canonical h

theorem ppuDot_canonical {s : State} (h : memoryCanonical s = true) : memoryCanonical (ppuDot s).final = true := by
  unfold ppuDot
  split
  · exact dotModes_canonical (dotAdvance_canonical (dotWork_canonical h))
  · exact h

theorem timerTick_frame (s : State) :
    (timerTick s).mem = s.mem ∧ (timerTick s).fb = s.fb ∧ (timerTick s).lastFrame = s.lastFrame := by
  have h1 : ∀ t : State, (timaIncrement t).mem = t.mem ∧ (timaIncrement t).fb = t.fb ∧ (timaIncrement t).lastFrame = t.lastFrame :=
    fun t => by
      unfold timaIncrement
      split <;> exact ⟨rfl, rfl, rfl⟩
  have h2 : ∀ t : State, (counterTick t).mem = t.mem ∧ (counterTick t).fb = t.fb ∧ (counterTick t).lastFrame = t.lastFrame :=
    fun t => by
      unfold counterTick
      dsimp only
      split
      · split
        · exact h1 _
        · exact ⟨rfl, rfl, rfl⟩
      · exact ⟨rfl, rfl, rfl⟩
  have h3 : (dividerTick s).mem = s.mem ∧ (dividerTick s).fb = s.fb ∧ (dividerTick s).lastFrame = s.lastFrame := by
    unfold dividerTick
    dsimp only
    split <;> exact ⟨rfl, rfl, rfl⟩
  exact ⟨(h2 _).1.trans h3.1, (h2 _).2.1.trans h3.2.1, (h2 _).2.2.trans h3.2.2⟩

theorem serialTick_frame (s : State) :
    (serialTick s).mem = s.mem ∧ (serialTick s).fb = s.fb ∧ (serialTick s).lastFrame = s.lastFrame := by
  unfold serialTick
  split
  · exact ⟨rfl, rfl, rfl⟩
  · dsimp only
    split <;> exact ⟨rfl, rfl, rfl⟩

/-- A tick keeps the canonical form, however it ends. -/
theorem tick_canonical {s : State} (h : memoryCanonical s = true) : memoryCanonical (tick s).final = true := by
  refine Res.andThen_final (P := fun t => memoryCanonical t = true)
    (repeatRes_final (P := fun t => memoryCanonical t = true) (fun _ ht => ppuDot_canonical ht) s.cfg.dotsPerTick s h) fun _ t _ ht => ?_
  have h1 := timerTick_frame t
  have h2 := serialTick_frame (timerTick t)
  exact memoryCanonical_congr (s := t) (h2.1.trans h1.1) (h2.2.1.trans h1.2.1) (h2.2.2.trans h1.2.2) ht

/-! ### The bus -/

theorem oamDmaBytes_canonical (base : Word) (k i : Nat) {s : State} (h : memoryCanonical s = true) :
    memoryCanonical (oamDmaBytes base k i s).final = true := by
  induction k generalizing i s with
  | zero => exact h
  | succ k ih =>
    simp only [oamDmaBytes]
    refine Res.andThen_final (P := fun t => memoryCanonical t = true)
      (repeatRes_final (P := fun t => memoryCanonical t = true) (fun _ ht => tick_canonical ht) _ s h) fun _ t _ ht => ?_
    split
    · exact ih (i + 1) (setOam_canonical _ _ ht)
    · exact memoryCanonical_congr (s := t) rfl rfl rfl ht

theorem writeHdma5_canonical (v : Byte) {s : State} (h : memoryCanonical s = true) : memoryCanonical (writeHdma5 v s).final = true := by
  have hl : memoryCanonical (hdmaLoad v s) = true := memoryCanonical_congr (s := s) rfl rfl rfl h
  unfold writeHdma5
  split
  · exact memoryCanonical_congr (s := s) (u := hdmaStop s) rfl rfl rfl h
  · dsimp only
    split
    · exact memoryCanonical_congr (s := hdmaLoad v s) rfl rfl rfl hl
    · exact Res.andThen_final (P := fun t => memoryCanonical t = true)
        (repeatRes_final (P := fun t => memoryCanonical t = true) (fun _ ht => copyBlock_canonical ht) _ _ hl) fun _ t _ ht =>
        memoryCanonical_congr (s := t) (u := hdmaStop t) rfl rfl rfl ht

theorem writeLcdc_canonical (v : Byte) {s : State} (h : memoryCanonical s = true) : memoryCanonical (writeLcdc v s) = true := by
  unfold writeLcdc
  dsimp only
  split
  · exact memoryCanonical_congr (s := s) rfl rfl rfl h
  · split
    · exact enterMode_canonical _ (memoryCanonical_congr (s := s) rfl rfl rfl h)
    · exact memoryCanonical_congr (s := s) rfl rfl rfl h

/-- A bus write keeps the canonical form, however it ends, the two DMA engines included. -/
theorem busWrite_canonical (a : Word) (v : Byte) {s : State} (h : memoryCanonical s = true) :
    memoryCanonical (busWrite a v s).final = true := by
  unfold busWrite
  cases busOwner s.colorMode a with
  | rom n => exact memoryCanonical_congr (s := s) rfl rfl rfl h
  | vram off => exact setVram_canonical _ _ _ h
  | cartRam off =>
    dsimp only
    split
    · exact setCartRam_canonical _ _ h
    · exact h
    · exact memoryCanonical_congr (s := s) rfl rfl rfl h
  | wramFixed off => exact setWram_canonical _ _ h
  | wramBanked off => exact setWram_canonical _ _ h
  | oam off => exact setOam_canonical _ _ h
  | hram off => exact setHram_canonical _ _ h
  | ie => exact memoryCanonical_congr (s := s) rfl rfl rfl h
  | nobody => exact memoryCanonical_congr (s := s) rfl rfl rfl h
  | io r =>
    cases r with
    | lcdc => exact writeLcdc_canonical v h
    | hdma5 => exact writeHdma5_canonical v h
    | bcpd => exact writeBcpd_canonical v h
    | ocpd => exact writeOcpd_canonical v h
    | audio i => exact setAudio_canonical _ v h
    | dma => exact oamDmaBytes_canonical _ 160 0 (memoryCanonical_congr (s := s) (u := { s with ppu := { s.ppu with dma := v } }) rfl rfl rfl h)
    | _ => exact memoryCanonical_congr (s := s) rfl rfl rfl h

/-- A store with its tick keeps the canonical form, however it ends. -/
theorem memWrite_canonical (a : Word) (v : Byte) {s : State} (h : memoryCanonical s = true) :
    memoryCanonical (memWrite a v s).final = true := by
  unfold memWrite
  split
  · exact Res.andThen_final (P := fun t => memoryCanonical t = true) (tick_canonical h) fun _ _ _ ht => busWrite_canonical a v ht
  · exact Res.andThen_final (P := fun t => memoryCanonical t = true) (busWrite_canonical a v h) fun _ _ _ ht => tick_canonical ht

/-- A read with its tick keeps the canonical form, however it ends. -/
theorem memRead_canonical (a : Word) {s : State} (h : memoryCanonical s = true) : memoryCanonical (memRead a s).final = true := by
  have hb : ∀ t : State, memoryCanonical t = true → memoryCanonical (busReadOp a t).final = true := fun t ht => by
    unfold busReadOp
    split
    · exact ht
    · exact memoryCanonical_congr (s := t) rfl rfl rfl ht
  unfold memRead
  split
  · exact Res.andThen_final (P := fun t => memoryCanonical t = true) (tick_canonical h) fun _ _ _ ht => hb _ ht
  · exact Res.andThen_final (P := fun t => memoryCanonical t = true) (hb s h) fun _ _ _ ht =>
      Res.andThen_final (P := fun t => memoryCanonical t = true) (tick_canonical ht) fun _ _ _ hu => hu

/-! ### Outside the machine -/

theorem placeByte_canonical (a : Word) (v : Byte) {s : State} (h : memoryCanonical s = true) : memoryCanonical (placeByte a v s) = true := by
  have hrom : ∀ k, memoryCanonical { s with mem := { s.mem with rom := setByte s.mem.rom k v } } = true := fun k => by
    refine memoryCanonical_mem ?_ h
    have := (memory_wf_iff s.mem).mp (memoryCanonical_wf h)
    rw [memory_wf_iff]
    exact ⟨cellsWf_setByte _ _ _ this.1, this.2⟩
  unfold placeByte
  cases busOwner s.colorMode a with
  | rom n => exact hrom _
  | vram off => exact setVram_canonical _ _ _ h
  | cartRam off =>
    dsimp only
    split
    · exact setCartRam_canonical _ _ h
    · exact h
    · exact h
  | wramFixed off => exact setWram_canonical _ _ h
  | wramBanked off => exact setWram_canonical _ _ h
  | oam off => exact setOam_canonical _ _ h
  | hram off => exact setHram_canonical _ _ h
  | ie => exact memoryCanonical_congr (s := s) rfl rfl rfl h
  | nobody => exact h
  | io r => exact h

theorem reset_wf : State.reset.mem.wf = true := by decide

end Sys2Proof.Machine
end

