-- ==== Sys2Proof/Laws/Places.lean ====
section
/-!
SUPPORT. The bytes that stores can change, by place: reading one, writing one, and `MemoryAfter` from what every place holds.
-/

namespace Sys2Proof.Machine

/-- The byte at a place. -/
def heldByte (s : State) : MemPlace → Byte
  | .vram k => byteAt s.mem.vram k
  | .cartRam k => byteAt s.mem.cartRam k
  | .wram k => byteAt s.mem.wram k
  | .oam k => byteAt s.mem.oam k
  | .hram k => byteAt s.mem.hram k
  | .ie => s.irq.ie

/-- The state with the byte at a place written. -/
def putByte (p : MemPlace) (v : Byte) (s : State) : State :=
  match p with
  | .vram k => { s with mem := { s.mem with vram := setByte s.mem.vram k v } }
  | .cartRam k => { s with mem := { s.mem with cartRam := setByte s.mem.cartRam k v } }
  | .wram k => { s with mem := { s.mem with wram := setByte s.mem.wram k v } }
  | .oam k => { s with mem := { s.mem with oam := setByte s.mem.oam k v } }
  | .hram k => { s with mem := { s.mem with hram := setByte s.mem.hram k v } }
  | .ie => { s with irq := { s.irq with ie := v } }

theorem heldByte_putByte (p q : MemPlace) (v : Byte) (s : State) :
    heldByte (putByte p v s) q = if q = p then v else heldByte s q := by
  cases p <;> cases q <;> simp only [putByte, heldByte, MemPlace.vram.injEq, MemPlace.cartRam.injEq, MemPlace.wram.injEq,
    MemPlace.oam.injEq, MemPlace.hram.injEq, reduceCtorEq, if_false, if_true]
  all_goals
    split
    · subst_vars
      simp
    · exact byteAt_setByte_other _ _ _ _ ‹_›

theorem putByte_kept (p : MemPlace) (v : Byte) (s : State) :
    (putByte p v s).cpu = s.cpu ∧ (putByte p v s).mem.rom = s.mem.rom ∧ SpecialsKept s (putByte p v s) ∧
      (p ≠ .ie → (putByte p v s).irq.ie = s.irq.ie) := by
  have kept : ∀ (m : Memory) (i : Irq), SpecialsKept s { s with mem := m, irq := i } := fun _ _ =>
    ⟨rfl, rfl, rfl, ⟨rfl, rfl⟩, ⟨rfl, rfl⟩, ⟨rfl, rfl, rfl, rfl⟩, ⟨rfl, rfl, rfl, rfl⟩, ⟨rfl, rfl, rfl⟩, rfl, rfl, rfl, rfl,
      rfl⟩
  cases p <;> exact ⟨rfl, rfl, kept _ _, fun h => by first | rfl | exact absurd rfl h⟩

/-- An address that shows a byte of memory reads as the byte at its place. -/
theorem busRead_place {s : State} {a : Word} {p : MemPlace} (h : placeOf s a = some p) : busRead s a = .byte (heldByte s p) := by
  unfold placeOf at h
  unfold busRead
  split at h <;> simp_all
  case h_2 =>
    split at h <;> simp_all
    subst h
    rfl
  all_goals
    subst h
    rfl

/-- A bus write to an address that shows a byte of memory writes that byte and nothing else. -/
theorem busWrite_place {s : State} {a : Word} {p : MemPlace} (v : Byte) (h : placeOf s a = some p) :
    busWrite a v s = .ok () (putByte p v s) := by
  unfold placeOf at h
  unfold busWrite
  split at h <;> simp_all
  case h_2 =>
    split at h <;> simp_all
    subst h
    rfl
  all_goals
    subst h
    rfl

/-- An address that shows no byte that a store can change, and is no device's register, reads by the ROM, the mapper and the
parameters. -/
theorem busRead_noPlace {s u : State} {b : Word} (hb : deviceRegister s.colorMode b = false) (h : placeOf s b = none)
    (hrom : u.mem.rom = s.mem.rom) (hcart : u.cart = s.cart) (hmode : u.colorMode = s.colorMode) (hcfg : u.cfg = s.cfg) :
    busRead u b = busRead s b := by
  unfold placeOf at h
  unfold deviceRegister at hb
  simp only [busRead, hmode, hrom, hcart, hcfg]
  split <;> simp_all
  split <;> simp_all

/-- `MemoryAfter` from what every place holds. -/
theorem memoryAfter_of {stores : List (MemPlace × Byte)} {s u : State} (hrom : u.mem.rom = s.mem.rom) (hcart : u.cart = s.cart)
    (hcolour : u.colour = s.colour) (hmode : u.colorMode = s.colorMode) (hcfg : u.cfg = s.cfg)
    (h : ∀ q, heldByte u q = (stores.lookup q).getD (heldByte s q)) : MemoryAfter stores s u := by
  intro b hb
  cases hp : placeOf s b with
  | none => exact busRead_noPlace hb hp hrom hcart hmode hcfg
  | some p =>
    rw [busRead_place ((placeOf_congr b hcart hcolour hmode).trans hp), busRead_place hp, h]
    simp only [Option.bind_some]
    cases stores.lookup p <;> rfl

/-- Moving the devices changes no byte at a place. -/
theorem DeviceOnly.heldByte {s u : State} (h : DeviceOnly s u) (p : MemPlace) : heldByte u p = heldByte s p := by
  cases p <;> simp only [Machine.heldByte, h.mem, h.ie]

end Sys2Proof.Machine
end

