-- ==== Sys2Proof/Laws/Memory.lean ====
section
/-!
SUPPORT. The memory operations in a machine with no paced VRAM DMA armed: one lemma for each says everything it can do, in the words
of Safety.lean.
-/

namespace Sys2Proof.Machine

/-! ### Owners -/

/-- An address below 0x8000 is the ROM's, and the ROM has no other. -/
theorem busOwner_rom {colour : Bool} {a : Word} {n : Nat} (h : busOwner colour a = .rom n) : a.toNat < 0x8000 := by
  unfold busOwner at h
  dsimp only at h
  repeat' split at h
  all_goals first | assumption | simp at h

/-- An address of the cartridge RAM window. -/
theorem busOwner_cartRam {colour : Bool} {a : Word} {n : Nat} (h : busOwner colour a = .cartRam n) :
    0xA000 ≤ a.toNat ∧ a.toNat < 0xC000 := by
  unfold busOwner at h
  dsimp only at h
  repeat' split at h
  all_goals first | (exfalso; simp at h; done) | exact ⟨Nat.le_of_not_lt ‹_›, ‹_›⟩

/-! ### One store on the bus -/

/-- What a store that raises nothing and starts no DMA leaves alone, wherever it lands. -/
structure Stored (a : Word) (s t : State) : Prop where
  cpu : t.cpu = s.cpu
  fault : t.fault = s.fault
  colorMode : t.colorMode = s.colorMode
  cfg : t.cfg = s.cfg
  hostQueue : t.hostQueue = s.hostQueue
  armed : t.colour.hdmaActive = s.colour.hdmaActive
  cart : 0x8000 ≤ a.toNat → t.cart = s.cart
  noPlace : placeOf s a = none →
    t.irq.ie = s.irq.ie ∧ t.mem.rom = s.mem.rom ∧ t.mem.vram = s.mem.vram ∧ t.mem.cartRam = s.mem.cartRam ∧
      t.mem.wram = s.mem.wram ∧ t.mem.oam = s.mem.oam ∧ t.mem.hram = s.mem.hram

theorem Stored.refl (a : Word) (s : State) : Stored a s s :=
  ⟨rfl, rfl, rfl, rfl, rfl, rfl, fun _ => rfl, fun _ => ⟨rfl, rfl, rfl, rfl, rfl, rfl, rfl⟩⟩

theorem Stored.quiet {a : Word} {s t : State} (h : Stored a s t) : quiet t = quiet s := by
  simp only [Machine.quiet, h.colorMode, h.armed]

theorem writeLcdc_stored (a : Word) (v : Byte) (s : State) : Stored a s (writeLcdc v s) := by
  have h : ∀ p : Ppu, Stored a s { s with ppu := p } := fun _ =>
    ⟨rfl, rfl, rfl, rfl, rfl, rfl, fun _ => rfl, fun _ => ⟨rfl, rfl, rfl, rfl, rfl, rfl, rfl⟩⟩
  unfold writeLcdc
  dsimp only
  split
  · exact h _
  · split
    · have hk := enterMode_device .oamScan { s with ppu := { s.ppu with lcdc := v } }
      exact ⟨hk.cpu, hk.specials.fault, hk.specials.colorMode, hk.specials.cfg, hk.specials.hostQueue,
        by rw [hk.specials.colour], fun _ => hk.specials.cart, fun _ => by
          rw [hk.mem, hk.ie]; exact ⟨rfl, rfl, rfl, rfl, rfl, rfl, rfl⟩⟩
    · exact h _

/-- A store to an address that can be stored to ends well. -/
theorem busWrite_storable {s : State} {a : Word} (v : Byte) (h : storable s a = true) : ∃ t, busWrite a v s = .ok () t ∧ Stored a s t := by
  cases hp : placeOf s a with
  | some p =>
    obtain ⟨h1, _, h3, _⟩ := putByte_kept p v s
    exact ⟨_, busWrite_place v hp, h1, h3.fault, h3.colorMode, h3.cfg, h3.hostQueue, by rw [h3.colour], fun _ => h3.cart,
      fun h' => by rw [hp] at h'; cases h'⟩
  | none =>
    unfold placeOf at hp
    unfold storable at h
    unfold busWrite
    cases ho : busOwner s.colorMode a with
    | rom n =>
      exact ⟨_, rfl, rfl, rfl, rfl, rfl, rfl, rfl, fun h' => absurd (busOwner_rom ho) (by omega),
        fun _ => ⟨rfl, rfl, rfl, rfl, rfl, rfl, rfl⟩⟩
    | cartRam off =>
      simp only [ho] at hp h
      cases hr : ramAccess s.cart off with
      | cell k => simp [hr] at hp
      | closed => exact ⟨s, by simp [hr], Stored.refl a s⟩
      | unmodelled => simp [hr] at h
    | io r =>
      simp only [ho] at h
      have base : ∀ t : State, t.cpu = s.cpu → t.fault = s.fault → t.colorMode = s.colorMode → t.cfg = s.cfg →
          t.hostQueue = s.hostQueue → t.colour.hdmaActive = s.colour.hdmaActive → t.cart = s.cart → t.irq.ie = s.irq.ie →
          t.mem.rom = s.mem.rom → t.mem.vram = s.mem.vram → t.mem.cartRam = s.mem.cartRam → t.mem.wram = s.mem.wram →
          t.mem.oam = s.mem.oam → t.mem.hram = s.mem.hram → Stored a s t :=
        fun t h1 h2 h3 h4 h5 h6 h7 h8 h9 h10 h11 h12 h13 h14 =>
          ⟨h1, h2, h3, h4, h5, h6, fun _ => h7, fun _ => ⟨h8, h9, h10, h11, h12, h13, h14⟩⟩
      cases r <;> first
        | exact absurd h Bool.false_ne_true
        | exact ⟨_, rfl, writeLcdc_stored a v s⟩
        | exact ⟨_, rfl, base _ rfl rfl rfl rfl rfl rfl rfl rfl rfl rfl rfl rfl rfl rfl⟩
    | nobody => simp [ho] at h
    | vram off => simp [ho] at hp
    | wramFixed off => simp [ho] at hp
    | wramBanked off => simp [ho] at hp
    | oam off => simp [ho] at hp
    | hram off => simp [ho] at hp
    | ie => simp [ho] at hp

/-- After a store, an address next to it can still be stored to. -/
theorem Stored.storable_next {a b : Word} {s t : State} (h : Stored a s t) (hb : b = a + 1#16 ∨ b = a - 1#16)
    (hs : storable s b = true) : storable t b = true := by
  by_cases ha : 0x8000 ≤ a.toNat
  · rw [storable_congr b (h.cart ha) h.colorMode]
    exact hs
  · unfold storable at *
    rw [h.colorMode]
    cases ho : busOwner s.colorMode b with
    | cartRam off =>
      have := busOwner_cartRam ho
      rcases hb with rfl | rfl
      · rw [BitVec.toNat_add] at this
        simp at this
        omega
      · rw [BitVec.toNat_sub] at this
        simp at this
        omega
    | io r => cases r <;> simp_all
    | _ => simp_all

/-! ### `MemRead` and `MemWrite` -/

/-- `MemRead(a, 1)` of an address that can be read. -/
theorem memRead_reads {s : State} {a : Word} (hq : quiet s = true) (hr : readable s a = true) : ∃ v u, ReadsByte a s v u := by
  obtain ⟨u, hu, hd⟩ := tick_quiet hq
  unfold Machine.readable at hr
  obtain ⟨v, hv⟩ := readable_byte (s := s) hr
  obtain ⟨w, hw⟩ := readable_byte ((hd.readable a).trans hr)
  by_cases hc : s.cfg.tickBeforeAccess = true
  · refine ⟨w, u, ?_, hd, fun hb => ?_⟩
    · simp [memRead, hc, hu, busReadOp, hw]
    · rw [← hw, hd.memory a hb]
  · refine ⟨v, u, ?_, hd, fun _ => hv⟩
    simp [memRead, hc, hu, busReadOp, hv]

/-- What traps does not depend on the devices that a clock drives. -/
theorem trapAt_device {s u : State} (h : DeviceOnly s u) (a : Word) (k : AccessKind) : trapAt u a k = trapAt s a k := by
  simp only [trapAt, h.specials.colorMode, h.specials.cart]

/-- Where a RAM window of a TypeB cartridge traps, its access is the unmodelled one (R143). -/
theorem ramAccess_unmodelled {c : Cart} (off : Nat) (h : c.kind = .typeB ∧ c.ramEnable = true ∧ c.ramSize ≠ 0 ∧ c.ramBankReg.toNat > 3) :
    ramAccess c off = .unmodelled := by
  simp [ramAccess, h.1, h.2.1, h.2.2.1, h.2.2.2]

theorem busRead_trap {s : State} {a : Word} {f : Fault} (h : trapAt s a .read = some f) : busRead s a = .fault f := by
  unfold trapAt at h
  unfold busRead
  split at h <;> simp_all
  simp [ramAccess_unmodelled _ h.1]

theorem busWrite_trap {s : State} {a : Word} {f : Fault} (v : Byte) (h : trapAt s a .write = some f) :
    busWrite a v s = .raised { s with fault := some f } := by
  unfold trapAt at h
  unfold busWrite
  split at h <;> simp_all [raiseFault]
  simp [ramAccess_unmodelled _ h.1]

/-- A read that traps: the fault is recorded, and but for it only the devices have moved. -/
theorem memRead_traps {s : State} {a : Word} {f : Fault} (hq : quiet s = true) (h : trapAt s a .read = some f) :
    ∃ u, DeviceOnly s u ∧ memRead a s = .raised { u with fault := some f } := by
  by_cases hc : s.cfg.tickBeforeAccess = true
  · obtain ⟨u, hu, hd⟩ := tick_quiet hq
    have := busRead_trap ((trapAt_device hd a .read).trans h)
    exact ⟨u, hd, by simp [memRead, hc, hu, busReadOp, this, raiseFault]⟩
  · exact ⟨s, .refl s, by simp [memRead, hc, busReadOp, busRead_trap h, raiseFault]⟩

/-- A store that traps: the fault is recorded, and but for it only the devices have moved. -/
theorem memWrite_traps {s : State} {a : Word} {f : Fault} (v : Byte) (hq : quiet s = true) (h : trapAt s a .write = some f) :
    ∃ u, DeviceOnly s u ∧ memWrite a v s = .raised { u with fault := some f } := by
  by_cases hc : s.cfg.tickBeforeAccess = true
  · obtain ⟨u, hu, hd⟩ := tick_quiet hq
    exact ⟨u, hd, by simp [memWrite, hc, hu, busWrite_trap v ((trapAt_device hd a .write).trans h)]⟩
  · exact ⟨s, .refl s, by simp [memWrite, hc, busWrite_trap v h]⟩

/-- A store with its tick, as a store on the bus somewhere among moves of the devices. -/
theorem memWrite_split {s : State} {a : Word} (v : Byte) (hq : quiet s = true) (hs : storable s a = true) :
    ∃ x y u, DeviceOnly s x ∧ busWrite a v x = .ok () y ∧ Stored a x y ∧ DeviceOnly y u ∧ memWrite a v s = .ok () u := by
  by_cases hc : s.cfg.tickBeforeAccess = true
  · obtain ⟨x, hx, hd⟩ := tick_quiet hq
    obtain ⟨y, hy, hk⟩ := busWrite_storable v ((hd.storable a).trans hs)
    exact ⟨x, y, y, hd, hy, hk, .refl y, by simp [memWrite, hc, hx, hy]⟩
  · obtain ⟨y, hy, hk⟩ := busWrite_storable v hs
    obtain ⟨u, hu, hd⟩ := tick_quiet (hk.quiet.trans hq)
    exact ⟨s, y, u, .refl s, hy, hk, hd, by simp [memWrite, hc, hy, hu]⟩

/-- From `s` to `u` the byte at one place was written, the devices moved, and nothing else changed but CPU registers. -/
structure Held (p : MemPlace) (v : Byte) (s u : State) : Prop where
  bytes : ∀ q, heldByte u q = if q = p then v else heldByte s q
  rom : u.mem.rom = s.mem.rom
  specials : SpecialsKept s u
  ie : p ≠ .ie → u.irq.ie = s.irq.ie

/-- What a store with its tick leaves alone, wherever it lands, and what it does where the address shows a byte of memory. -/
structure StoredTick (a : Word) (v : Byte) (s u : State) : Prop where
  run : memWrite a v s = .ok () u
  stored : Stored a s u
  held : ∀ p, placeOf s a = some p → Held p v s u

/-- `Held` does not look at the CPU. -/
theorem Held.ofWithCpu {p : MemPlace} {v : Byte} {s u : State} {r : Cpu} (h : Held p v { s with cpu := r } u) : Held p v s u where
  bytes := fun q => (h.bytes q).trans (by cases q <;> rfl)
  rom := h.rom
  specials := h.specials.ofWithCpu
  ie := h.ie

/-- One byte written, as one change of memory. -/
theorem Held.one {p : MemPlace} {v : Byte} {s u : State} (h : Held p v s u) : MemoryAfter [(p, v)] s u := by
  refine memoryAfter_of h.rom h.specials.cart h.specials.colour h.specials.colorMode h.specials.cfg fun q => ?_
  rw [h.bytes q]
  by_cases hq : q = p
  · subst hq
    simp
  · simp [List.lookup, hq, beq_false_of_ne hq]

/-- Two bytes written one after the other, as one change of memory. -/
theorem Held.both {p q : MemPlace} {v w : Byte} {s m u : State} (h : Held p v s m) (k : Held q w m u) :
    MemoryAfter [(q, w), (p, v)] s u ∧ SpecialsKept s u ∧ (p ≠ .ie → q ≠ .ie → u.irq.ie = s.irq.ie) := by
  have hk := h.specials.trans k.specials
  refine ⟨memoryAfter_of (k.rom.trans h.rom) hk.cart hk.colour hk.colorMode hk.cfg fun r => ?_, hk,
    fun h1 h2 => (k.ie h2).trans (h.ie h1)⟩
  rw [k.bytes r, h.bytes r]
  by_cases h1 : r = q
  · subst h1
    simp
  · by_cases h2 : r = p
    · subst h2
      simp [List.lookup, h1, beq_false_of_ne h1]
    · simp [List.lookup, h1, h2, beq_false_of_ne h1, beq_false_of_ne h2]

/-- `MemWrite(a, 1, v)` to an address that can be stored to. -/
theorem memWrite_storedTick {s : State} {a : Word} (v : Byte) (hq : quiet s = true) (hs : storable s a = true) :
    ∃ u, StoredTick a v s u := by
  obtain ⟨x, y, u, hd, hy, hk, he, hu⟩ := memWrite_split v hq hs
  refine ⟨u, hu, ⟨?_, ?_, ?_, ?_, ?_, ?_, ?_, ?_⟩, ?_⟩
  · exact he.cpu.trans (hk.cpu.trans hd.cpu)
  · exact he.specials.fault.trans (hk.fault.trans hd.specials.fault)
  · exact he.specials.colorMode.trans (hk.colorMode.trans hd.specials.colorMode)
  · exact he.specials.cfg.trans (hk.cfg.trans hd.specials.cfg)
  · exact he.specials.hostQueue.trans (hk.hostQueue.trans hd.specials.hostQueue)
  · rw [he.specials.colour, hk.armed, hd.specials.colour]
  · exact fun ha => he.specials.cart.trans ((hk.cart ha).trans hd.specials.cart)
  · intro hp
    have := hk.noPlace ((hd.placeOf a).trans hp)
    rw [hd.mem, hd.ie] at this
    rw [he.mem, he.ie]
    exact this
  · intro p hp
    have hp' := (hd.placeOf a).trans hp
    rw [busWrite_place v hp'] at hy
    cases hy
    obtain ⟨_, hrom, hkept, hie⟩ := putByte_kept p v x
    refine ⟨fun q => ?_, ?_, (hd.specials.trans hkept).trans he.specials, fun hn => ?_⟩
    · rw [he.heldByte, heldByte_putByte, hd.heldByte]
    · rw [he.mem, hrom, hd.mem]
    · rw [he.ie, hie hn, hd.ie]

theorem StoredTick.storesByte {a : Word} {v : Byte} {s u : State} (h : StoredTick a v s u) : StoresByte a v s u where
  run := h.run
  cpu := h.stored.cpu
  fault := h.stored.fault
  place := fun p hp => ⟨(h.held p hp).one, (h.held p hp).specials, (h.held p hp).ie⟩
  noPlace := h.stored.noPlace

/-- `MemWrite(a, 1, v)` in the words of the statements. -/
theorem memWrite_stores {s : State} {a : Word} (v : Byte) (hq : quiet s = true) (hs : storable s a = true) :
    ∃ u, StoresByte a v s u := by
  obtain ⟨u, h⟩ := memWrite_storedTick v hq hs
  exact ⟨u, h.storesByte⟩

/-! ### Two bytes -/

/-- `MemWrite(a, 2, v)`. -/
theorem memWrite16_stores {s : State} {a : Word} (v : Word) (hq : quiet s = true) (ha : storable s a = true)
    (hb : storable s (a + 1#16) = true) : ∃ u, StoresWord a v s u := by
  obtain ⟨m, hm⟩ := memWrite_storedTick (lowByte v) hq ha
  obtain ⟨u, hu⟩ := memWrite_storedTick (highByte v) (hm.stored.quiet.trans hq) (hm.stored.storable_next (.inl rfl) hb)
  exact ⟨u, by simp [memWrite16, hm.run, hu.run], hu.stored.cpu.trans hm.stored.cpu, hu.stored.fault.trans hm.stored.fault,
    fun p q hp hq' =>
      have hk := (hm.held p hp).specials
      (hm.held p hp).both (hu.held q ((placeOf_congr _ hk.cart hk.colour hk.colorMode).trans hq'))⟩

/-- `Push16(v)`. -/
theorem push16_pushes {s : State} (v : Word) (hq : quiet s = true) (ha : storable s (s.cpu.sp - 1#16) = true)
    (hb : storable s (s.cpu.sp - 2#16) = true) : ∃ u, PushesWord v s u := by
  have e : s.cpu.sp - 2#16 = s.cpu.sp - 1#16 - 1#16 := by bv_omega
  obtain ⟨m, hm⟩ := memWrite_storedTick (s := s.setSp (s.cpu.sp - 1#16)) (a := s.cpu.sp - 1#16) (highByte v) hq ha
  have hsp : m.cpu.sp = s.cpu.sp - 1#16 := by rw [hm.stored.cpu]; rfl
  obtain ⟨u, hu⟩ := memWrite_storedTick (s := m.setSp (m.cpu.sp - 1#16)) (a := m.cpu.sp - 1#16) (lowByte v)
    (hm.stored.quiet.trans hq)
    (by rw [hsp]; exact hm.stored.storable_next (b := s.cpu.sp - 1#16 - 1#16) (.inr rfl) (e ▸ hb))
  refine ⟨u, ?_, ?_, hu.stored.fault.trans hm.stored.fault, fun p q hp hq' => ?_⟩
  · simp [push16, pushByte, hm.run, hu.run]
  · rw [hu.stored.cpu, State.setSp_cpu, hm.stored.cpu, State.setSp_cpu, e]
  · have h1 : Held p (highByte v) s m := (hm.held p hp).ofWithCpu
    have h2 : Held q (lowByte v) m u :=
      (hu.held q (by
        rw [placeOf_congr (s := s) (u := m.setSp (m.cpu.sp - 1#16)) _ h1.specials.cart h1.specials.colour h1.specials.colorMode, hsp,
          ← e]
        exact hq')).ofWithCpu
    exact h1.both h2

/-- `Pop16()`. -/
theorem pop16_pops {s : State} (hq : quiet s = true) (ha : readable s s.cpu.sp = true) (hb : readable s (s.cpu.sp + 1#16) = true) :
    ∃ v u, PopsWord s v u := by
  obtain ⟨lo, m, hm⟩ := memRead_reads hq ha
  have hsp : m.cpu.sp = s.cpu.sp := by rw [hm.device.cpu]
  have hd : DeviceOnly { s with cpu := { m.cpu with sp := m.cpu.sp + 1#16 } } (m.setSp (m.cpu.sp + 1#16)) := hm.device.withCpu _
  obtain ⟨hi, u, hu⟩ := memRead_reads (s := m.setSp (m.cpu.sp + 1#16)) (a := (m.setSp (m.cpu.sp + 1#16)).cpu.sp)
    (hd.quiet.trans hq) ((hd.readable _).trans (by rw [State.setSp_cpu]; show readable s (m.cpu.sp + 1#16) = true; rw [hsp]; exact hb))
  have hc : (m.setSp (m.cpu.sp + 1#16)).cpu.sp = s.cpu.sp + 1#16 := by rw [State.setSp_cpu]; show m.cpu.sp + 1#16 = _; rw [hsp]
  have hk : SpecialsKept s u := hm.device.specials.trans hu.device.specials.ofWithCpu
  have hmem : u.mem = s.mem := hu.device.mem.trans hm.device.mem
  have hie : u.irq.ie = s.irq.ie := hu.device.ie.trans hm.device.ie
  refine ⟨joinBytes hi lo, u.setSp (u.cpu.sp + 1#16), ?_, ?_, hmem, hie,
    fun b hb' => busRead_congr hb' hmem hk.cart hk.colour hk.colorMode hk.cfg hie,
    hk.withCpu, fun hx => ?_, fun hx => ?_⟩
  · simp only [pop16, popByte, hm.run, Res.ok_andThen]
    rw [hu.run]
    rfl
  · rw [State.setSp_cpu, hu.device.cpu, State.setSp_cpu, hm.device.cpu]
    simp only [BitVec.add_assoc]
    rfl
  · rw [lowByte_joinBytes]
    exact hm.shown hx
  · rw [highByte_joinBytes, ← hc]
    have h := hu.shown (by rw [hc]; show deviceRegister m.colorMode _ = false; rw [hm.device.specials.colorMode]; exact hx)
    rw [← h, hc]
    exact (hd.memory _ hx).symm

end Sys2Proof.Machine
end

