-- ==== Sys2Proof/Laws/Exec.lean ====
section
/-!
SUPPORT. Fetching and running: what a fetch gives in a machine with no paced VRAM DMA, how an instruction is fetched whole, and that an
instruction other than `HALT` means the same inside `HALT`'s refetch as outside it.
-/

namespace Sys2Proof.Machine

/-! ### Fetching -/

/-- A fetch reads the byte at `PC` with its tick and moves `PC` on (R15). -/
theorem fetch8_reads {s : State} (hq : quiet s = true) (hr : readable s s.cpu.pc = true) :
    ∃ v u, ReadsByte s.cpu.pc s v u ∧ fetch8 s = .ok v (u.setPc (s.cpu.pc + 1#16)) := by
  obtain ⟨v, u, h⟩ := memRead_reads hq hr
  exact ⟨v, u, h, by rw [fetch8, h.run, Res.ok_andThen, h.device.cpu]⟩

/-- A fetch does nothing but read and move `PC`. -/
theorem fetch8_eq {s u : State} {v : Byte} :
    fetch8 s = .ok v u ↔ ∃ t, memRead s.cpu.pc s = .ok v t ∧ u = t.setPc (t.cpu.pc + 1#16) := by
  simp only [fetch8, Res.andThen_eq_ok, Res.ok.injEq]
  constructor
  · rintro ⟨a, t, h, rfl, rfl⟩
    exact ⟨t, h, rfl⟩
  · rintro ⟨t, h, rfl⟩
    exact ⟨v, t, h, rfl, rfl⟩

/-- An opcode byte has a length of 1, 2 or 3 bytes (R160). -/
theorem opLength_cases (op : Byte) : opLength op = 1 ∨ opLength op = 2 ∨ opLength op = 3 := by
  revert op
  decide

theorem fetchOperands_one {op : Byte} (h : opLength op = 1) (s : State) :
    fetchOperands op s = .ok (decodeInstr op 0x00#8 0x00#8) s := by
  simp only [fetchOperands, h]

theorem fetchOperands_two {op : Byte} (h : opLength op = 2) (s : State) :
    fetchOperands op s = (fetch8 s).andThen fun lo t => .ok (decodeInstr op lo 0x00#8) t := by
  simp only [fetchOperands, h]

theorem fetchOperands_three {op : Byte} (h : opLength op = 3) (s : State) :
    fetchOperands op s = (fetch8 s).andThen fun lo t => (fetch8 t).andThen fun hi u => .ok (decodeInstr op lo hi) u := by
  simp only [fetchOperands, h]

/-! ### Steps -/

/-- A step of a faulted machine (R401). -/
theorem step_faulted {s : State} {f : Fault} (h : s.fault = some f) : step s = .fault f := by
  rw [step, h]

/-- A step with a `HALT` still to be run (log 7). -/
theorem step_haltAgain {s : State} (h : s.fault = none) (ha : s.haltAgain = true) : step s = exec .halt (s.setHaltAgain false) := by
  simp only [step, h, ha, if_true]

/-- A step whose plan is over. -/
theorem step_over {s t : State} (h : s.fault = none) (ha : s.haltAgain = false) (hp : stepPlan (hostMoves s) = .over t) :
    step s = .next t := by
  simp only [step, h, ha, hp, Bool.false_eq_true, if_false]

/-- A step whose plan is to run an instruction that has been fetched. -/
theorem step_run {s t : State} {i : Instr} (h : s.fault = none) (ha : s.haltAgain = false)
    (hp : stepPlan (hostMoves s) = .run i t) : step s = exec i t := by
  simp only [step, h, ha, hp, Bool.false_eq_true, if_false]

/-- Everything a step that answers a next state can have been. -/
theorem step_cases {s t : State} (h : step s = .next t) :
    s.fault = none ∧
      ((s.haltAgain = true ∧ exec .halt (s.setHaltAgain false) = .next t) ∨
        (s.haltAgain = false ∧ stepPlan (hostMoves s) = .over t) ∨
        (s.haltAgain = false ∧ ∃ i u, stepPlan (hostMoves s) = .run i u ∧ exec i u = .next t)) := by
  cases hf : s.fault with
  | some f => rw [step_faulted hf] at h; cases h
  | none =>
    refine ⟨rfl, ?_⟩
    cases ha : s.haltAgain with
    | true => exact .inl ⟨rfl, (step_haltAgain hf ha).symm.trans h⟩
    | false =>
      rcases hp : stepPlan (hostMoves s) with u | ⟨i, u⟩
      · rw [step_over hf ha hp] at h
        cases h
        exact .inr (.inl ⟨rfl, rfl⟩)
      · exact .inr (.inr ⟨rfl, i, u, rfl, (step_run hf ha hp).symm.trans h⟩)

/-- With nothing pending the plan is the halted tick or the fetch (R400). -/
theorem stepPlan_noInterrupt {s : State} (h : pendingInterrupts s = 0#5) : stepPlan s = planFetch s := by
  rw [stepPlan, h]
  rfl

/-! ### Running -/

/-- Inside `HALT`'s refetch every other instruction means what it means outside (R352). -/
theorem runInstr_eq_exec (onHalt : State → Host.Outcome State Fault Refusal) (i : Instr) (s : State) (h : i ≠ .halt) :
    runInstr onHalt i s = exec i s := by
  cases i <;> first | rfl | exact absurd rfl h

/-- What `HALT` does where nothing is refetched (R352). -/
theorem execHalt_plain {s : State} (h : s.cfg.haltPendingIme0 ≠ .refetch) :
    execHalt s = .next s ∨ execHalt s = .next (s.setHalted true) ∨
      execHalt s = .next { s with fault := some (.haltWithPendingInterrupt (pendingInterrupts s)) } := by
  unfold execHalt
  split
  · exact .inr (.inl rfl)
  · split
    · exact .inl rfl
    · split
      · exact .inr (.inr rfl)
      · exact .inl rfl
      · exact absurd ‹_› h

/-- What `HALT` does where it refetches (R352, log 7). -/
theorem execHalt_refetch {s : State} (hp : pendingInterrupts s ≠ 0#5) (hi : s.cpu.ime = false)
    (hc : s.cfg.haltPendingIme0 = .refetch) :
    execHalt s =
      match refetchInstr s with
      | .ok i t => if i = .halt then .next (t.setHaltAgain true) else exec i t
      | .raised t => .next t := by
  rw [execHalt, if_neg hp, if_neg (by simp [hi])]
  simp only [hc]
  cases refetchInstr s with
  | raised t => rfl
  | ok i t =>
    dsimp only
    split
    · subst i
      rfl
    · exact runInstr_eq_exec _ i t ‹_›

end Sys2Proof.Machine
end

