-- ==== Sys2Proof/Laws/Fixed.lean ====
section
/-!
SUPPORT. What no access to memory changes, however it ends: the CPU, and what power-up fixes, and what
a step's own bookkeeping is.
-/

namespace Sys2Proof.Machine

/-- The CPU, the mode, the parameters, the ROM, what the header fixes, the host's moves and a `HALT` still to be run are as before. -/
structure FixedKept (s u : State) : Prop where
  cpu : u.cpu = s.cpu
  colorMode : u.colorMode = s.colorMode
  cfg : u.cfg = s.cfg
  rom : u.mem.rom = s.mem.rom
  kind : u.cart.kind = s.cart.kind
  romSize : u.cart.romSize = s.cart.romSize
  romBanks : u.cart.romBanks = s.cart.romBanks
  ramSize : u.cart.ramSize = s.cart.ramSize
  hostQueue : u.hostQueue = s.hostQueue
  haltAgain : u.haltAgain = s.haltAgain

theorem FixedKept.refl (s : State) : FixedKept s s := ⟨rfl, rfl, rfl, rfl, rfl, rfl, rfl, rfl, rfl, rfl⟩

theorem FixedKept.trans {s t u : State} (h : FixedKept s t) (k : FixedKept t u) : FixedKept s u :=
  ⟨k.cpu.trans h.cpu, k.colorMode.trans h.colorMode, k.cfg.trans h.cfg, k.rom.trans h.rom, k.kind.trans h.kind,
    k.romSize.trans h.romSize, k.romBanks.trans h.romBanks, k.ramSize.trans h.ramSize, k.hostQueue.trans h.hostQueue,
    k.haltAgain.trans h.haltAgain⟩

theorem ClockKept.fixed {s u : State} (h : ClockKept s u) : FixedKept s u :=
  ⟨h.cpu, h.colorMode, h.cfg, by rw [h.mem], by rw [h.cart], by rw [h.cart], by rw [h.cart], by rw [h.cart],
    h.hostQueue, h.haltAgain⟩

theorem tick_fixed (s : State) : FixedKept s (tick s).final := (tick_clockKept s).fixed

theorem ticks_fixed (n : Nat) (s : State) : FixedKept s (repeatRes tick n s).final :=
  repeatRes_final (P := fun t => FixedKept s t) (fun t ht => ht.trans (tick_fixed t)) n s (.refl s)

/-! ### The bus -/

theorem mapperRegisterWrite_fixed (n : Nat) (v : Byte) (s : State) :
    FixedKept s { s with cart := mapperRegisterWrite s.cart n v } := by
  have h : (mapperRegisterWrite s.cart n v).kind = s.cart.kind ∧ (mapperRegisterWrite s.cart n v).romSize = s.cart.romSize ∧
      (mapperRegisterWrite s.cart n v).romBanks = s.cart.romBanks ∧ (mapperRegisterWrite s.cart n v).ramSize = s.cart.ramSize := by
    unfold mapperRegisterWrite
    repeat' split
    all_goals exact ⟨rfl, rfl, rfl, rfl⟩
  exact ⟨rfl, rfl, rfl, rfl, h.1, h.2.1, h.2.2.1, h.2.2.2, rfl, rfl⟩

theorem oamDmaBytes_fixed (base : Word) (k i : Nat) (s : State) : FixedKept s (oamDmaBytes base k i s).final := by
  induction k generalizing i s with
  | zero => exact .refl s
  | succ k ih =>
    simp only [oamDmaBytes]
    refine Res.andThen_final (P := fun t => FixedKept s t) (ticks_fixed _ s) fun _ t _ ht => ?_
    split
    · exact ht.trans (.trans (t := setOam i _ t) ⟨rfl, rfl, rfl, rfl, rfl, rfl, rfl, rfl, rfl, rfl⟩ (ih (i + 1) _))
    · exact ht.trans ⟨rfl, rfl, rfl, rfl, rfl, rfl, rfl, rfl, rfl, rfl⟩

theorem writeHdma5_fixed (v : Byte) (s : State) : FixedKept s (writeHdma5 v s).final := by
  have hl : FixedKept s (hdmaLoad v s) := ⟨rfl, rfl, rfl, rfl, rfl, rfl, rfl, rfl, rfl, rfl⟩
  unfold writeHdma5
  split
  · exact ⟨rfl, rfl, rfl, rfl, rfl, rfl, rfl, rfl, rfl, rfl⟩
  · dsimp only
    split
    · exact hl.trans ⟨rfl, rfl, rfl, rfl, rfl, rfl, rfl, rfl, rfl, rfl⟩
    · exact Res.andThen_final (P := fun t => FixedKept s t)
        (repeatRes_final (P := fun t => FixedKept s t) (fun t ht => ht.trans (copyBlock_clockKept t).fixed) _ _ hl) fun _ t _ ht =>
        ht.trans (u := hdmaStop t) ⟨rfl, rfl, rfl, rfl, rfl, rfl, rfl, rfl, rfl, rfl⟩

theorem writeLcdc_fixed (v : Byte) (s : State) : FixedKept s (writeLcdc v s) := by
  unfold writeLcdc
  dsimp only
  split
  · exact ⟨rfl, rfl, rfl, rfl, rfl, rfl, rfl, rfl, rfl, rfl⟩
  · split
    · exact .trans (t := { s with ppu := { s.ppu with lcdc := v } }) ⟨rfl, rfl, rfl, rfl, rfl, rfl, rfl, rfl, rfl, rfl⟩
        (enterMode_device .oamScan _).clockKept.fixed
    · exact ⟨rfl, rfl, rfl, rfl, rfl, rfl, rfl, rfl, rfl, rfl⟩

/-- A bus write, however it ends. -/
theorem busWrite_fixed (a : Word) (v : Byte) (s : State) : FixedKept s (busWrite a v s).final := by
  unfold busWrite
  cases busOwner s.colorMode a with
  | rom n => exact mapperRegisterWrite_fixed n v s
  | cartRam off =>
    dsimp only
    split <;> exact ⟨rfl, rfl, rfl, rfl, rfl, rfl, rfl, rfl, rfl, rfl⟩
  | io r =>
    cases r with
    | lcdc => exact writeLcdc_fixed v s
    | hdma5 => exact writeHdma5_fixed v s
    | dma => exact .trans (t := { s with ppu := { s.ppu with dma := v } }) ⟨rfl, rfl, rfl, rfl, rfl, rfl, rfl, rfl, rfl, rfl⟩ (oamDmaBytes_fixed _ 160 0 _)
    | _ => exact ⟨rfl, rfl, rfl, rfl, rfl, rfl, rfl, rfl, rfl, rfl⟩
  | _ => exact ⟨rfl, rfl, rfl, rfl, rfl, rfl, rfl, rfl, rfl, rfl⟩

/-! ### Accesses with their tick -/

theorem busReadOp_fixed (a : Word) (s : State) : FixedKept s (busReadOp a s).final := by
  unfold busReadOp
  split <;> exact ⟨rfl, rfl, rfl, rfl, rfl, rfl, rfl, rfl, rfl, rfl⟩

/-- A read, however it ends. -/
theorem memRead_fixed (a : Word) (s : State) : FixedKept s (memRead a s).final := by
  unfold memRead
  split
  · exact Res.andThen_final (P := fun t => FixedKept s t) (tick_fixed s) fun _ t _ ht => ht.trans (busReadOp_fixed a t)
  · exact Res.andThen_final (P := fun t => FixedKept s t) (busReadOp_fixed a s) fun _ t _ ht =>
      Res.andThen_final (P := fun t => FixedKept s t) (ht.trans (tick_fixed t)) fun _ _ _ hu => hu

/-- A store, however it ends. -/
theorem memWrite_fixed (a : Word) (v : Byte) (s : State) : FixedKept s (memWrite a v s).final := by
  unfold memWrite
  split
  · exact Res.andThen_final (P := fun t => FixedKept s t) (tick_fixed s) fun _ t _ ht => ht.trans (busWrite_fixed a v t)
  · exact Res.andThen_final (P := fun t => FixedKept s t) (busWrite_fixed a v s) fun _ t _ ht => ht.trans (tick_fixed t)

end Sys2Proof.Machine
end

