-- ==== Sys2Proof/Laws/Operations.lean ====
section
/-!
SUPPORT. What each operand form and each transfer of control does in a machine with no paced VRAM DMA, where its addresses can be read
or stored to: one lemma for each shared operation, in the words of Safety.lean.
-/

namespace Sys2Proof.Machine

/-! ### Operand forms through an address -/

theorem loadReg_loads {s : State} {a : Word} (r : Reg8) (hq : quiet s = true) (hr : readable s a = true) :
    ∃ v u, ReadsByte a s v u ∧ loadReg r a s = .ok () (u.setReg8 r v) := by
  obtain ⟨v, u, h⟩ := memRead_reads hq hr
  exact ⟨v, u, h, by rw [loadReg, h.run]; rfl⟩

theorem aluHl_reads {s : State} (op : AluOp) (hq : quiet s = true) (hr : readable s s.cpu.hl = true) :
    ∃ v u, ReadsByte s.cpu.hl s v u ∧ aluHl op s = .ok () (aluApply op v u) := by
  obtain ⟨v, u, h⟩ := memRead_reads hq hr
  exact ⟨v, u, h, by rw [aluHl, readAtHl, h.run]; rfl⟩

theorem modifyHl_modifies {s : State} (op : ByteOp) (hq : quiet s = true) (hs : storable s s.cpu.hl = true) :
    ∃ v u t, ReadsByte s.cpu.hl s v u ∧ StoresByte s.cpu.hl (op s.cpu.flags v).1 (u.setFlags (op s.cpu.flags v).2) t ∧
      modifyHl op s = .ok () t := by
  obtain ⟨v, u, h⟩ := memRead_reads hq (readable_of_storable hs)
  have hu : storable (u.setFlags (op s.cpu.flags v).2) s.cpu.hl = true := (h.device.storable _).trans hs
  have hk : quiet (u.setFlags (op s.cpu.flags v).2) = true := h.device.quiet.trans hq
  obtain ⟨t, ht⟩ := memWrite_stores (op s.cpu.flags v).1 hk hu
  refine ⟨v, u, t, h, ht, ?_⟩
  rw [modifyHl, readAtHl, h.run, Res.ok_andThen]
  simp only [writeAtHl, State.setFlags_cpu, h.device.cpu]
  exact ht.run

/-! ### Transfers of control -/

theorem jumpTo_jumps {s : State} (target : Word) (hq : quiet s = true) :
    ∃ t, Ticks (s.setPc target) t ∧ jumpTo target s = .ok () t := by
  obtain ⟨t, ht⟩ := tick_ticks (s := s.setPc target) hq
  exact ⟨t, ht, ht.run⟩

theorem callTo_calls {s : State} (target : Word) (hq : quiet s = true) (ha : storable s (s.cpu.sp - 1#16) = true)
    (hb : storable s (s.cpu.sp - 2#16) = true) :
    ∃ u t, Ticks s u ∧ PushesWord s.cpu.pc u t ∧ callTo target s = .ok () (t.setPc target) := by
  obtain ⟨u, hu⟩ := tick_ticks hq
  have hd := hu.device
  obtain ⟨t, ht⟩ := push16_pushes (s := u) s.cpu.pc (hd.quiet.trans hq) (by rw [hd.cpu, hd.storable]; exact ha)
    (by rw [hd.cpu, hd.storable]; exact hb)
  refine ⟨u, t, hu, ht, ?_⟩
  rw [callTo, internalTick, hu.run, Res.ok_andThen, hd.cpu, ht.run]
  rfl

theorem returnFromCall_returns {s : State} (hq : quiet s = true) (ha : readable s s.cpu.sp = true)
    (hb : readable s (s.cpu.sp + 1#16) = true) :
    ∃ v u t, PopsWord s v u ∧ Ticks (u.setPc v) t ∧ returnFromCall s = .ok () t := by
  obtain ⟨v, u, h⟩ := pop16_pops hq ha hb
  have hk : quiet (u.setPc v) = true := by
    show quiet u = true
    rw [quiet, h.specials.colorMode, h.specials.colour]
    exact hq
  obtain ⟨t, ht⟩ := tick_ticks hk
  exact ⟨v, u, t, h, ht, by rw [returnFromCall, h.run]; exact ht.run⟩

theorem returnFromInterrupt_returns {s : State} (hq : quiet s = true) (ha : readable s s.cpu.sp = true)
    (hb : readable s (s.cpu.sp + 1#16) = true) :
    ∃ v u t, PopsWord s v u ∧ Ticks (u.setPc v) t ∧ returnFromInterrupt s = .ok () (t.setIme true) := by
  obtain ⟨v, u, t, hp, ht, hr⟩ := returnFromCall_returns hq ha hb
  exact ⟨v, u, t, hp, ht, by rw [returnFromInterrupt, hr]; rfl⟩

/-- Taking interrupt `i` (R405): two ticks, `PC` pushed, the latch and the one request cleared, the vector, and a fifth tick; where the
stack stores to no DMA register, the pushes leave the machine able to tick. -/
theorem takeInterrupt_takes {s : State} (i : Fin 5) (hq : quiet s = true) (ha : storable s (s.cpu.sp - 1#16) = true)
    (hb : storable s (s.cpu.sp - 2#16) = true) :
    ∃ a b c, Ticks s a ∧ Ticks a b ∧ PushesWord s.cpu.pc b c ∧
      takeInterrupt i s = tick ((clearInterrupt i (c.setIme false)).setPc (interruptVector i)) := by
  obtain ⟨a, h1⟩ := tick_ticks hq
  obtain ⟨b, h2⟩ := tick_ticks (h1.device.quiet.trans hq)
  have hd := h1.device.trans h2.device
  obtain ⟨c, hc⟩ := push16_pushes (s := b) s.cpu.pc (hd.quiet.trans hq) (by rw [hd.cpu, hd.storable]; exact ha)
    (by rw [hd.cpu, hd.storable]; exact hb)
  refine ⟨a, b, c, h1, h2, hc, ?_⟩
  rw [takeInterrupt, internalTick, h1.run, Res.ok_andThen, internalTick, h2.run, Res.ok_andThen, hd.cpu, hc.run]
  rfl

end Sys2Proof.Machine
end

