-- ==== Sys2Proof/Laws/PerInstr.lean ====
section
/-!
SUPPORT. Statements for all instructions, one lemma per constructor of `Instr`.

The family `EncodedLength`: the first byte of an instruction's encoding fixes how many bytes the encoding has (R160).
-/

namespace Sys2Proof.Laws.EncodedLength

open Sys2Proof

/-- A well-formed instruction's encoding begins with an opcode byte whose length is that of the encoding. -/
def Statement (i : Instr) : Prop :=
  i.WellFormed = true → ∃ op operands, encode i = op :: operands ∧ opLength op = (encode i).length

/-- The length of `RST t` for every target that the encoding admits. -/
theorem opLength_rst : ∀ t : Byte, t &&& 0xC7#8 = 0x00#8 → opLength (0xC7#8 ||| t) = 1 := by decide

theorem nop : Statement .nop := fun _ => ⟨_, _, rfl, rfl⟩

theorem ldRrNn (rr : Reg16) (nn : Word) : Statement (.ldRrNn rr nn) := by cases rr <;> exact fun _ => ⟨_, _, rfl, rfl⟩

theorem ldBcA : Statement .ldBcA := fun _ => ⟨_, _, rfl, rfl⟩

theorem ldDeA : Statement .ldDeA := fun _ => ⟨_, _, rfl, rfl⟩

theorem ldHliA : Statement .ldHliA := fun _ => ⟨_, _, rfl, rfl⟩

theorem ldHldA : Statement .ldHldA := fun _ => ⟨_, _, rfl, rfl⟩

theorem incRr (rr : Reg16) : Statement (.incRr rr) := by cases rr <;> exact fun _ => ⟨_, _, rfl, rfl⟩

theorem decRr (rr : Reg16) : Statement (.decRr rr) := by cases rr <;> exact fun _ => ⟨_, _, rfl, rfl⟩

theorem incR (r : Reg8) : Statement (.incR r) := by cases r <;> exact fun _ => ⟨_, _, rfl, rfl⟩

theorem incHl : Statement .incHl := fun _ => ⟨_, _, rfl, rfl⟩

theorem decR (r : Reg8) : Statement (.decR r) := by cases r <;> exact fun _ => ⟨_, _, rfl, rfl⟩

theorem decHl : Statement .decHl := fun _ => ⟨_, _, rfl, rfl⟩

theorem ldRN (r : Reg8) (n : Byte) : Statement (.ldRN r n) := by cases r <;> exact fun _ => ⟨_, _, rfl, rfl⟩

theorem ldHlN (n : Byte) : Statement (.ldHlN n) := fun _ => ⟨_, _, rfl, rfl⟩

theorem rlca : Statement .rlca := fun _ => ⟨_, _, rfl, rfl⟩

theorem rrca : Statement .rrca := fun _ => ⟨_, _, rfl, rfl⟩

theorem rla : Statement .rla := fun _ => ⟨_, _, rfl, rfl⟩

theorem rra : Statement .rra := fun _ => ⟨_, _, rfl, rfl⟩

theorem daa : Statement .daa := fun _ => ⟨_, _, rfl, rfl⟩

theorem cpl : Statement .cpl := fun _ => ⟨_, _, rfl, rfl⟩

theorem scf : Statement .scf := fun _ => ⟨_, _, rfl, rfl⟩

theorem ccf : Statement .ccf := fun _ => ⟨_, _, rfl, rfl⟩

theorem ldNnSp (nn : Word) : Statement (.ldNnSp nn) := fun _ => ⟨_, _, rfl, rfl⟩

theorem stop : Statement .stop := fun _ => ⟨_, _, rfl, rfl⟩

theorem jrE (e : Byte) : Statement (.jrE e) := fun _ => ⟨_, _, rfl, rfl⟩

theorem jrCcE (cc : Cond) (e : Byte) : Statement (.jrCcE cc e) := by cases cc <;> exact fun _ => ⟨_, _, rfl, rfl⟩

theorem addHlRr (rr : Reg16) : Statement (.addHlRr rr) := by cases rr <;> exact fun _ => ⟨_, _, rfl, rfl⟩

theorem ldABc : Statement .ldABc := fun _ => ⟨_, _, rfl, rfl⟩

theorem ldADe : Statement .ldADe := fun _ => ⟨_, _, rfl, rfl⟩

theorem ldAHli : Statement .ldAHli := fun _ => ⟨_, _, rfl, rfl⟩

theorem ldAHld : Statement .ldAHld := fun _ => ⟨_, _, rfl, rfl⟩

theorem ldRR (r : Reg8) (r' : Reg8) : Statement (.ldRR r r') := by cases r <;> cases r' <;> exact fun _ => ⟨_, _, rfl, rfl⟩

theorem ldRHl (r : Reg8) : Statement (.ldRHl r) := by cases r <;> exact fun _ => ⟨_, _, rfl, rfl⟩

theorem ldHlR (r : Reg8) : Statement (.ldHlR r) := by cases r <;> exact fun _ => ⟨_, _, rfl, rfl⟩

theorem halt : Statement .halt := fun _ => ⟨_, _, rfl, rfl⟩

theorem addAR (r : Reg8) : Statement (.addAR r) := by cases r <;> exact fun _ => ⟨_, _, rfl, rfl⟩

theorem addAHl : Statement .addAHl := fun _ => ⟨_, _, rfl, rfl⟩

theorem adcAR (r : Reg8) : Statement (.adcAR r) := by cases r <;> exact fun _ => ⟨_, _, rfl, rfl⟩

theorem adcAHl : Statement .adcAHl := fun _ => ⟨_, _, rfl, rfl⟩

theorem subR (r : Reg8) : Statement (.subR r) := by cases r <;> exact fun _ => ⟨_, _, rfl, rfl⟩

theorem subHl : Statement .subHl := fun _ => ⟨_, _, rfl, rfl⟩

theorem sbcAR (r : Reg8) : Statement (.sbcAR r) := by cases r <;> exact fun _ => ⟨_, _, rfl, rfl⟩

theorem sbcAHl : Statement .sbcAHl := fun _ => ⟨_, _, rfl, rfl⟩

theorem andR (r : Reg8) : Statement (.andR r) := by cases r <;> exact fun _ => ⟨_, _, rfl, rfl⟩

theorem andHl : Statement .andHl := fun _ => ⟨_, _, rfl, rfl⟩

theorem xorR (r : Reg8) : Statement (.xorR r) := by cases r <;> exact fun _ => ⟨_, _, rfl, rfl⟩

theorem xorHl : Statement .xorHl := fun _ => ⟨_, _, rfl, rfl⟩

theorem orR (r : Reg8) : Statement (.orR r) := by cases r <;> exact fun _ => ⟨_, _, rfl, rfl⟩

theorem orHl : Statement .orHl := fun _ => ⟨_, _, rfl, rfl⟩

theorem cpR (r : Reg8) : Statement (.cpR r) := by cases r <;> exact fun _ => ⟨_, _, rfl, rfl⟩

theorem cpHl : Statement .cpHl := fun _ => ⟨_, _, rfl, rfl⟩

theorem retCc (cc : Cond) : Statement (.retCc cc) := by cases cc <;> exact fun _ => ⟨_, _, rfl, rfl⟩

theorem ldhNA (n : Byte) : Statement (.ldhNA n) := fun _ => ⟨_, _, rfl, rfl⟩

theorem addSpE (e : Byte) : Statement (.addSpE e) := fun _ => ⟨_, _, rfl, rfl⟩

theorem ldhAN (n : Byte) : Statement (.ldhAN n) := fun _ => ⟨_, _, rfl, rfl⟩

theorem ldHlSpE (e : Byte) : Statement (.ldHlSpE e) := fun _ => ⟨_, _, rfl, rfl⟩

theorem popQq (qq : Reg16Stk) : Statement (.popQq qq) := by cases qq <;> exact fun _ => ⟨_, _, rfl, rfl⟩

theorem ret : Statement .ret := fun _ => ⟨_, _, rfl, rfl⟩

theorem reti : Statement .reti := fun _ => ⟨_, _, rfl, rfl⟩

theorem jpHl : Statement .jpHl := fun _ => ⟨_, _, rfl, rfl⟩

theorem ldSpHl : Statement .ldSpHl := fun _ => ⟨_, _, rfl, rfl⟩

theorem jpCcNn (cc : Cond) (nn : Word) : Statement (.jpCcNn cc nn) := by cases cc <;> exact fun _ => ⟨_, _, rfl, rfl⟩

theorem ldhCA : Statement .ldhCA := fun _ => ⟨_, _, rfl, rfl⟩

theorem ldNnA (nn : Word) : Statement (.ldNnA nn) := fun _ => ⟨_, _, rfl, rfl⟩

theorem ldhAC : Statement .ldhAC := fun _ => ⟨_, _, rfl, rfl⟩

theorem ldANn (nn : Word) : Statement (.ldANn nn) := fun _ => ⟨_, _, rfl, rfl⟩

theorem jpNn (nn : Word) : Statement (.jpNn nn) := fun _ => ⟨_, _, rfl, rfl⟩

theorem prefixCb (sub : Byte) : Statement (.prefixCb sub) := fun _ => ⟨_, _, rfl, rfl⟩

theorem di : Statement .di := fun _ => ⟨_, _, rfl, rfl⟩

theorem ei : Statement .ei := fun _ => ⟨_, _, rfl, rfl⟩

theorem callCcNn (cc : Cond) (nn : Word) : Statement (.callCcNn cc nn) := by cases cc <;> exact fun _ => ⟨_, _, rfl, rfl⟩

theorem pushQq (qq : Reg16Stk) : Statement (.pushQq qq) := by cases qq <;> exact fun _ => ⟨_, _, rfl, rfl⟩

theorem callNn (nn : Word) : Statement (.callNn nn) := fun _ => ⟨_, _, rfl, rfl⟩

theorem addAN (n : Byte) : Statement (.addAN n) := fun _ => ⟨_, _, rfl, rfl⟩

theorem adcAN (n : Byte) : Statement (.adcAN n) := fun _ => ⟨_, _, rfl, rfl⟩

theorem subN (n : Byte) : Statement (.subN n) := fun _ => ⟨_, _, rfl, rfl⟩

theorem sbcAN (n : Byte) : Statement (.sbcAN n) := fun _ => ⟨_, _, rfl, rfl⟩

theorem andN (n : Byte) : Statement (.andN n) := fun _ => ⟨_, _, rfl, rfl⟩

theorem xorN (n : Byte) : Statement (.xorN n) := fun _ => ⟨_, _, rfl, rfl⟩

theorem orN (n : Byte) : Statement (.orN n) := fun _ => ⟨_, _, rfl, rfl⟩

theorem cpN (n : Byte) : Statement (.cpN n) := fun _ => ⟨_, _, rfl, rfl⟩

theorem rstT (t : Byte) : Statement (.rstT t) := fun h => ⟨_, _, rfl, opLength_rst t (by simpa [Instr.WellFormed] using h)⟩

theorem illegalD3 : Statement .illegalD3 := fun _ => ⟨_, _, rfl, rfl⟩

theorem illegalDB : Statement .illegalDB := fun _ => ⟨_, _, rfl, rfl⟩

theorem illegalDD : Statement .illegalDD := fun _ => ⟨_, _, rfl, rfl⟩

theorem illegalE3 : Statement .illegalE3 := fun _ => ⟨_, _, rfl, rfl⟩

theorem illegalE4 : Statement .illegalE4 := fun _ => ⟨_, _, rfl, rfl⟩

theorem illegalEB : Statement .illegalEB := fun _ => ⟨_, _, rfl, rfl⟩

theorem illegalEC : Statement .illegalEC := fun _ => ⟨_, _, rfl, rfl⟩

theorem illegalED : Statement .illegalED := fun _ => ⟨_, _, rfl, rfl⟩

theorem illegalF4 : Statement .illegalF4 := fun _ => ⟨_, _, rfl, rfl⟩

theorem illegalFC : Statement .illegalFC := fun _ => ⟨_, _, rfl, rfl⟩

theorem illegalFD : Statement .illegalFD := fun _ => ⟨_, _, rfl, rfl⟩

theorem rlcR (r : Reg8) : Statement (.rlcR r) := by cases r <;> exact fun _ => ⟨_, _, rfl, rfl⟩

theorem rlcHl : Statement .rlcHl := fun _ => ⟨_, _, rfl, rfl⟩

theorem rrcR (r : Reg8) : Statement (.rrcR r) := by cases r <;> exact fun _ => ⟨_, _, rfl, rfl⟩

theorem rrcHl : Statement .rrcHl := fun _ => ⟨_, _, rfl, rfl⟩

theorem rlR (r : Reg8) : Statement (.rlR r) := by cases r <;> exact fun _ => ⟨_, _, rfl, rfl⟩

theorem rlHl : Statement .rlHl := fun _ => ⟨_, _, rfl, rfl⟩

theorem rrR (r : Reg8) : Statement (.rrR r) := by cases r <;> exact fun _ => ⟨_, _, rfl, rfl⟩

theorem rrHl : Statement .rrHl := fun _ => ⟨_, _, rfl, rfl⟩

theorem slaR (r : Reg8) : Statement (.slaR r) := by cases r <;> exact fun _ => ⟨_, _, rfl, rfl⟩

theorem slaHl : Statement .slaHl := fun _ => ⟨_, _, rfl, rfl⟩

theorem sraR (r : Reg8) : Statement (.sraR r) := by cases r <;> exact fun _ => ⟨_, _, rfl, rfl⟩

theorem sraHl : Statement .sraHl := fun _ => ⟨_, _, rfl, rfl⟩

theorem swapR (r : Reg8) : Statement (.swapR r) := by cases r <;> exact fun _ => ⟨_, _, rfl, rfl⟩

theorem swapHl : Statement .swapHl := fun _ => ⟨_, _, rfl, rfl⟩

theorem srlR (r : Reg8) : Statement (.srlR r) := by cases r <;> exact fun _ => ⟨_, _, rfl, rfl⟩

theorem srlHl : Statement .srlHl := fun _ => ⟨_, _, rfl, rfl⟩

theorem bitBR (bn : Fin 8) (r : Reg8) : Statement (.bitBR bn r) := by fin_cases bn <;> cases r <;> exact fun _ => ⟨_, _, rfl, rfl⟩

theorem bitBHl (bn : Fin 8) : Statement (.bitBHl bn) := by fin_cases bn <;> exact fun _ => ⟨_, _, rfl, rfl⟩

theorem resBR (bn : Fin 8) (r : Reg8) : Statement (.resBR bn r) := by fin_cases bn <;> cases r <;> exact fun _ => ⟨_, _, rfl, rfl⟩

theorem resBHl (bn : Fin 8) : Statement (.resBHl bn) := by fin_cases bn <;> exact fun _ => ⟨_, _, rfl, rfl⟩

theorem setBR (bn : Fin 8) (r : Reg8) : Statement (.setBR bn r) := by fin_cases bn <;> cases r <;> exact fun _ => ⟨_, _, rfl, rfl⟩

theorem setBHl (bn : Fin 8) : Statement (.setBHl bn) := by fin_cases bn <;> exact fun _ => ⟨_, _, rfl, rfl⟩

end Sys2Proof.Laws.EncodedLength
end

