-- ==== Sys2Proof/Laws/Requests.lean ====
section
/-!
SUPPORT. Interrupt requests are latched: no tick and no read takes one away (R404), so what is pending before one is pending after it.
-/

namespace Sys2Proof.Machine

/-- Every request that `s` holds, `u` holds. -/
structure RequestsKept (s u : State) : Prop where
  kept : s.irq.iflag &&& u.irq.iflag = s.irq.iflag

theorem RequestsKept.of_eq {s u : State} (h : u.irq.iflag = s.irq.iflag) : RequestsKept s u :=
  ⟨by rw [h, BitVec.and_self]⟩

theorem RequestsKept.refl (s : State) : RequestsKept s s := .of_eq rfl

theorem RequestsKept.trans {s t u : State} (h : RequestsKept s t) (k : RequestsKept t u) : RequestsKept s u :=
  ⟨by rw [← h.kept, BitVec.and_assoc, k.kept]⟩

theorem requestInterrupt_requests (i : Fin 5) (s : State) : RequestsKept s (requestInterrupt i s) := by
  refine ⟨?_⟩
  show s.irq.iflag &&& (s.irq.iflag ||| (1#5 <<< i.val)) = s.irq.iflag
  generalize 1#5 <<< i.val = b
  ext k
  simpa using Or.inl

/-! ### The PPU -/

theorem enterMode_requests (m : PpuMode) (s : State) : RequestsKept s (enterMode m s) := by
  have h : RequestsKept s { s with ppu := { s.ppu with mode := m } } := .of_eq rfl
  unfold enterMode
  cases m <;> dsimp only <;> split <;> first | exact h | exact h.trans (requestInterrupt_requests 1 _)

theorem lineCompare_requests (s : State) : RequestsKept s (lineCompare s) := by
  unfold lineCompare
  split
  · exact requestInterrupt_requests 1 s
  · exact .refl s

theorem laneFetch_irq (x y : Nat) (s : State) : (laneFetch x y s).irq = s.irq := by
  unfold laneFetch refetchRow fetchRow windowSwitch
  repeat' split
  all_goals rfl

theorem dotWork_requests (s : State) : RequestsKept s (dotWork s) := by
  unfold dotWork
  split
  · split
    · exact .of_eq (by rw [show (emitPixel s).irq = _ from laneFetch_irq _ _ s])
    · exact .of_eq rfl
  · exact .refl s

theorem dotAdvance_requests (s : State) : RequestsKept s (dotAdvance s) := by
  unfold dotAdvance endLine
  split
  · split <;> (refine .trans ?_ (lineCompare_requests _); exact .of_eq rfl)
  · exact .of_eq rfl

theorem copyBytes_irq (k i : Nat) (s : State) : (copyBytes k i s).final.irq = s.irq := by
  induction k generalizing i s with
  | zero => rfl
  | succ k ih =>
    simp only [copyBytes]
    split
    · rw [ih, setVram_irq]
    · rfl

theorem hBlankDma_irq (s : State) : (hBlankDma s).final.irq = s.irq := by
  have hb : (copyBlock s).final.irq = s.irq :=
    Res.andThen_final (P := fun t => t.irq = s.irq) (copyBytes_irq 16 0 s) fun _ _ _ h => h
  unfold hBlankDma
  split
  · refine Res.andThen_final (P := fun t => t.irq = s.irq) hb fun _ t _ h => ?_
    dsimp only [Res.final]
    split <;> exact h
  · rfl

theorem ppuDot_requests (s : State) : RequestsKept s (ppuDot s).final := by
  unfold ppuDot
  split
  · have hd := (dotWork_requests s).trans (dotAdvance_requests _)
    generalize dotAdvance (dotWork s) = t at hd
    unfold dotModes
    split
    · exact hd
    · exact hd.trans (enterMode_requests .oamScan t)
    · exact (hd.trans (u := startDraw t) (.of_eq rfl)).trans (enterMode_requests .draw _)
    · exact (hd.trans (enterMode_requests .hBlank t)).trans (.of_eq (by rw [hBlankDma_irq]))
    · exact (hd.trans (enterMode_requests .vBlank t)).trans (requestInterrupt_requests 0 _)
  · exact .refl s

/-! ### The tick and the read -/

theorem timerTick_requests (s : State) : RequestsKept s (timerTick s) := by
  have hd : RequestsKept s (dividerTick s) := by
    unfold dividerTick
    dsimp only
    split <;> exact .of_eq rfl
  refine hd.trans ?_
  show RequestsKept _ (counterTick (dividerTick s))
  unfold counterTick timaIncrement
  dsimp only
  repeat' split
  all_goals first | exact .of_eq rfl | (refine .trans ?_ (requestInterrupt_requests 2 _); exact .of_eq rfl)

theorem serialTick_requests (s : State) : RequestsKept s (serialTick s) := by
  unfold serialTick
  dsimp only
  split
  · exact .refl s
  · split
    · refine .trans ?_ (requestInterrupt_requests 3 _)
      exact .of_eq rfl
    · exact .of_eq rfl

theorem tick_requests (s : State) : RequestsKept s (tick s).final :=
  Res.andThen_final (P := fun t => RequestsKept s t)
    (repeatRes_final (fun t ht => ht.trans (ppuDot_requests t)) s.cfg.dotsPerTick s (.refl s)) fun _ t _ ht =>
    ht.trans ((timerTick_requests t).trans (serialTick_requests _))

/-- A read, however it ends. -/
theorem memRead_requests (a : Word) (s : State) : RequestsKept s (memRead a s).final := by
  have hr (t : State) : RequestsKept t (busReadOp a t).final := by
    unfold busReadOp
    split <;> exact .of_eq rfl
  unfold memRead
  split
  · exact Res.andThen_final (P := fun t => RequestsKept s t) (tick_requests s) fun _ t _ ht => ht.trans (hr t)
  · exact Res.andThen_final (P := fun t => RequestsKept s t) (hr s) fun _ t _ ht =>
      Res.andThen_final (P := fun t => RequestsKept s t) (ht.trans (tick_requests t)) fun _ _ _ hu => hu

/-- What keeps `IE` and every request keeps the machine pending. -/
theorem RequestsKept.pending {s u : State} (h : RequestsKept s u) (hie : u.irq.ie = s.irq.ie) (hp : pendingInterrupts s ≠ 0#5) :
    pendingInterrupts u ≠ 0#5 := by
  intro h0
  apply hp
  unfold pendingInterrupts at *
  rw [← h.kept, BitVec.and_comm s.irq.iflag, ← BitVec.and_assoc, ← hie, h0, BitVec.zero_and]

end Sys2Proof.Machine
end

