-- ==== Sys2Proof/Laws/WithCpu.lean ====
section
/-!
SUPPORT. The devices do not look at the CPU: a tick gives the same whatever the CPU holds, and leaves that as it was.
-/

namespace Sys2Proof.Machine

theorem ite_withCpu (c : Prop) [Decidable c] (s t : State) (p : Cpu) :
    (if c then s else t).withCpu p = if c then s.withCpu p else t.withCpu p := by
  split <;> rfl

theorem requestInterrupt_withCpu (i : Fin 5) (s : State) (p : Cpu) :
    requestInterrupt i (s.withCpu p) = (requestInterrupt i s).withCpu p := rfl

theorem enterMode_withCpu (m : PpuMode) (s : State) (p : Cpu) : enterMode m (s.withCpu p) = (enterMode m s).withCpu p := by
  unfold enterMode
  rw [ite_withCpu]
  cases m <;> rfl

theorem lineCompare_withCpu (s : State) (p : Cpu) : lineCompare (s.withCpu p) = (lineCompare s).withCpu p := by
  unfold lineCompare
  rw [ite_withCpu]
  rfl

theorem fetchRow_withCpu (x y : Nat) (s : State) (p : Cpu) : fetchRow x y (s.withCpu p) = (fetchRow x y s).withCpu p := by
  unfold fetchRow
  rw [ite_withCpu, ite_withCpu]
  rfl

theorem windowSwitch_withCpu (x y : Nat) (s : State) (p : Cpu) : windowSwitch x y (s.withCpu p) = (windowSwitch x y s).withCpu p := by
  unfold windowSwitch
  rw [ite_withCpu]
  rfl

theorem laneFetch_withCpu (x y : Nat) (s : State) (p : Cpu) : laneFetch x y (s.withCpu p) = (laneFetch x y s).withCpu p := by
  unfold laneFetch refetchRow
  rw [windowSwitch_withCpu, fetchRow_withCpu, ite_withCpu]
  rfl

theorem emitPixel_withCpu (s : State) (p : Cpu) : emitPixel (s.withCpu p) = (emitPixel s).withCpu p := by
  have h := laneFetch_withCpu s.ppu.lx s.ppu.ly.toNat s p
  unfold emitPixel
  dsimp only [State.withCpu_ppu]
  rw [h]
  rfl

theorem dotWork_withCpu (s : State) (p : Cpu) : dotWork (s.withCpu p) = (dotWork s).withCpu p := by
  unfold dotWork
  rw [emitPixel_withCpu, ite_withCpu, ite_withCpu]
  rfl

theorem dotAdvance_withCpu (s : State) (p : Cpu) : dotAdvance (s.withCpu p) = (dotAdvance s).withCpu p := by
  have h (u : State) : lineCompare (u.withCpu p) = (lineCompare u).withCpu p := lineCompare_withCpu u p
  unfold dotAdvance endLine
  rw [ite_withCpu, ite_withCpu, ← h, ← h]
  rfl

theorem timerTick_withCpu (s : State) (p : Cpu) : timerTick (s.withCpu p) = (timerTick s).withCpu p := by
  have h1 (s : State) : dividerTick (s.withCpu p) = (dividerTick s).withCpu p := by
    unfold dividerTick
    dsimp only
    rw [ite_withCpu]
    rfl
  have h2 (s : State) : timaIncrement (s.withCpu p) = (timaIncrement s).withCpu p := by
    unfold timaIncrement
    rw [ite_withCpu]
    rfl
  have h3 (s : State) : counterTick (s.withCpu p) = (counterTick s).withCpu p := by
    unfold counterTick
    dsimp only
    rw [ite_withCpu, ite_withCpu, ← h2]
    rfl
  rw [timerTick, h1, h3]
  rfl

theorem serialTick_withCpu (s : State) (p : Cpu) : serialTick (s.withCpu p) = (serialTick s).withCpu p := by
  unfold serialTick
  rw [State.withCpu_serial]
  cases s.serial.cnt with
  | zero => rfl
  | succ n =>
    dsimp only
    rw [ite_withCpu]
    rfl

/-- A dot with no paced VRAM DMA armed does not look at the CPU. -/
theorem ppuDot_withCpu {s u : State} (hq : quiet s = true) (h : ppuDot s = .ok () u) (p : Cpu) :
    ppuDot (s.withCpu p) = .ok () (u.withCpu p) := by
  have hl : lcdcBit (s.withCpu p) 7 = lcdcBit s 7 := rfl
  unfold ppuDot at *
  rw [hl]
  split at h
  case isFalse =>
    cases h
    simp_all
  case isTrue hb =>
    rw [if_pos hb, dotWork_withCpu, dotAdvance_withCpu]
    have hd := ((dotWork_device s).trans (dotAdvance_device _))
    generalize dotAdvance (dotWork s) = t at *
    have hm : modeDue (t.withCpu p) = modeDue t := rfl
    unfold dotModes at *
    rw [hm]
    split at h
    · cases h
      simp_all
    · cases h
      simp_all [enterMode_withCpu]
    · cases h
      exact congrArg (Res.ok ()) (enterMode_withCpu .draw (startDraw t) p)
    · have hq' : quiet (enterMode .hBlank t) = true := ((hd.trans (enterMode_device .hBlank t)).quiet.trans hq)
      rw [hBlankDma_quiet hq'] at h
      cases h
      rw [enterMode_withCpu]
      exact hBlankDma_quiet hq'
    · cases h
      rw [enterMode_withCpu]
      rfl

theorem repeatDot_withCpu (n : Nat) (p : Cpu) {s u : State} (hq : quiet s = true) (h : repeatRes ppuDot n s = .ok () u) :
    repeatRes ppuDot n (s.withCpu p) = .ok () (u.withCpu p) := by
  induction n generalizing s with
  | zero =>
    cases h
    rfl
  | succ n ih =>
    obtain ⟨t, ht, hd⟩ := ppuDot_quiet hq
    rw [repeatRes, ht] at h
    rw [repeatRes, ppuDot_withCpu hq ht]
    exact ih (hd.quiet.trans hq) h

/-- A tick with no paced VRAM DMA armed gives the same whatever the CPU holds, and leaves that as it was. -/
theorem tick_withCpu {s u : State} (hq : quiet s = true) (h : tick s = .ok () u) (p : Cpu) : tick (s.withCpu p) = .ok () (u.withCpu p) := by
  unfold tick at *
  rw [Res.andThen_eq_ok] at h
  obtain ⟨_, t, ht, hu⟩ := h
  cases hu
  rw [State.withCpu_cfg, repeatDot_withCpu _ p hq ht]
  simp only [Res.ok_andThen, timerTick_withCpu, serialTick_withCpu]

end Sys2Proof.Machine
end

