-- ==== Sys2Proof/Tests/Slice0.lean ====
section
/-!
SUPPORT. The model's own tests: ill-formed terms refused, words written out from the grids of 30_encoding.md, one-instruction vectors of
95_test_vectors.md and worked examples of the instruction rules, and for every statement with hypotheses a state that meets them.
-/

namespace Sys2Proof.Tests

open Sys2Proof.Machine

/-! ### Well-formedness -/

/-- The one operand check (R343): a target is a multiple of 8 below 0x40. -/
theorem test_wellFormed_rst : (Instr.rstT 0x38#8).WellFormed = true ∧ (Instr.rstT 0x00#8).WellFormed = true := by decide

theorem test_illFormed_rst_lowBits : (Instr.rstT 0x03#8).WellFormed = false := by decide

theorem test_illFormed_rst_highBits : (Instr.rstT 0x40#8).WellFormed = false := by decide

/-! ### Decoding -/

/-- The words on the left decode, whole, to the instructions on the right. -/
def decodesTo (l : List (List Byte × Instr)) : Bool := l.all fun e => decode e.1 == .instr e.2 []

/-- R164, R169: block 0, columns 0 to 3. -/
theorem test_decode_block0_low :
    decodesTo
      [([0x00#8], .nop), ([0x10#8], .stop), ([0x08#8, 0x34#8, 0x12#8], .ldNnSp 0x1234#16), ([0x18#8, 0xF6#8], .jrE 0xF6#8),
        ([0x20#8, 0xFC#8], .jrCcE .nz 0xFC#8), ([0x28#8, 0x02#8], .jrCcE .z 0x02#8), ([0x30#8, 0x00#8], .jrCcE .nc 0x00#8),
        ([0x38#8, 0x7F#8], .jrCcE .c 0x7F#8), ([0x01#8, 0x34#8, 0x12#8], .ldRrNn .bc 0x1234#16),
        ([0x31#8, 0xFE#8, 0xFF#8], .ldRrNn .sp 0xFFFE#16), ([0x09#8], .addHlRr .bc), ([0x39#8], .addHlRr .sp), ([0x02#8], .ldBcA),
        ([0x12#8], .ldDeA), ([0x22#8], .ldHliA), ([0x32#8], .ldHldA), ([0x0A#8], .ldABc), ([0x1A#8], .ldADe), ([0x2A#8], .ldAHli),
        ([0x3A#8], .ldAHld), ([0x13#8], .incRr .de), ([0x2B#8], .decRr .hl)] = true := by
  decide

/-- R164, R169: block 0, columns 4 to 7. -/
theorem test_decode_block0_high :
    decodesTo
      [([0x04#8], .incR .b), ([0x3C#8], .incR .a), ([0x34#8], .incHl), ([0x0D#8], .decR .c), ([0x35#8], .decHl),
        ([0x1E#8, 0x55#8], .ldRN .e 0x55#8), ([0x3E#8, 0x42#8], .ldRN .a 0x42#8), ([0x36#8, 0x99#8], .ldHlN 0x99#8), ([0x07#8], .rlca),
        ([0x0F#8], .rrca), ([0x17#8], .rla), ([0x1F#8], .rra), ([0x27#8], .daa), ([0x2F#8], .cpl), ([0x37#8], .scf),
        ([0x3F#8], .ccf)] = true := by
  decide

/-- R165, R166, R169: blocks 1 and 2. -/
theorem test_decode_blocks1and2 :
    decodesTo
      [([0x41#8], .ldRR .b .c), ([0x7A#8], .ldRR .a .d), ([0x6C#8], .ldRR .l .h), ([0x66#8], .ldRHl .h), ([0x7E#8], .ldRHl .a),
        ([0x70#8], .ldHlR .b), ([0x77#8], .ldHlR .a), ([0x76#8], .halt), ([0x80#8], .addAR .b), ([0x86#8], .addAHl), ([0x89#8], .adcAR .c),
        ([0x8E#8], .adcAHl), ([0x92#8], .subR .d), ([0x96#8], .subHl), ([0x9B#8], .sbcAR .e), ([0x9E#8], .sbcAHl), ([0xA4#8], .andR .h),
        ([0xA6#8], .andHl), ([0xAD#8], .xorR .l), ([0xAE#8], .xorHl), ([0xB7#8], .orR .a), ([0xB6#8], .orHl), ([0xB8#8], .cpR .b),
        ([0xBE#8], .cpHl)] = true := by
  decide

/-- R167, R169: block 3, columns 0 to 3. -/
theorem test_decode_block3_low :
    decodesTo
      [([0xC0#8], .retCc .nz), ([0xD8#8], .retCc .c), ([0xE0#8, 0x80#8], .ldhNA 0x80#8), ([0xE8#8, 0x81#8], .addSpE 0x81#8),
        ([0xF0#8, 0x44#8], .ldhAN 0x44#8), ([0xF8#8, 0x02#8], .ldHlSpE 0x02#8), ([0xC1#8], .popQq .bc), ([0xF1#8], .popQq .af),
        ([0xC9#8], .ret), ([0xD9#8], .reti), ([0xE9#8], .jpHl), ([0xF9#8], .ldSpHl), ([0xCA#8, 0x00#8, 0x80#8], .jpCcNn .z 0x8000#16),
        ([0xE2#8], .ldhCA), ([0xEA#8, 0xFE#8, 0xFF#8], .ldNnA 0xFFFE#16), ([0xF2#8], .ldhAC), ([0xFA#8, 0x34#8, 0xC1#8], .ldANn 0xC134#16),
        ([0xC3#8, 0x50#8, 0x01#8], .jpNn 0x0150#16), ([0xF3#8], .di), ([0xFB#8], .ei)] = true := by
  decide

/-- R167, R169: block 3, columns 4 to 7. -/
theorem test_decode_block3_high :
    decodesTo
      [([0xC4#8, 0x00#8, 0x02#8], .callCcNn .nz 0x0200#16), ([0xDC#8, 0x34#8, 0x12#8], .callCcNn .c 0x1234#16), ([0xD5#8], .pushQq .de),
        ([0xF5#8], .pushQq .af), ([0xCD#8, 0x00#8, 0x02#8], .callNn 0x0200#16), ([0xC6#8, 0x80#8], .addAN 0x80#8),
        ([0xCE#8, 0x01#8], .adcAN 0x01#8), ([0xD6#8, 0x0F#8], .subN 0x0F#8), ([0xDE#8, 0xFF#8], .sbcAN 0xFF#8),
        ([0xE6#8, 0x38#8], .andN 0x38#8), ([0xEE#8, 0x0F#8], .xorN 0x0F#8), ([0xF6#8, 0x03#8], .orN 0x03#8), ([0xFE#8, 0x3C#8], .cpN 0x3C#8),
        ([0xC7#8], .rstT 0x00#8), ([0xEF#8], .rstT 0x28#8), ([0xFF#8], .rstT 0x38#8)] = true := by
  decide

/-- R171: the illegal opcodes. -/
theorem test_decode_illegal :
    decodesTo
      [([0xD3#8], .illegalD3), ([0xDB#8], .illegalDB), ([0xDD#8], .illegalDD), ([0xE3#8], .illegalE3), ([0xE4#8], .illegalE4),
        ([0xEB#8], .illegalEB), ([0xEC#8], .illegalEC), ([0xED#8], .illegalED), ([0xF4#8], .illegalF4), ([0xFC#8], .illegalFC),
        ([0xFD#8], .illegalFD)] = true := by
  decide

/-- R168, R170: the prefixed grid. -/
theorem test_decode_prefixed :
    decodesTo
      [([0xCB#8, 0x00#8], .rlcR .b), ([0xCB#8, 0x06#8], .rlcHl), ([0xCB#8, 0x0F#8], .rrcR .a), ([0xCB#8, 0x0E#8], .rrcHl),
        ([0xCB#8, 0x11#8], .rlR .c), ([0xCB#8, 0x16#8], .rlHl), ([0xCB#8, 0x1A#8], .rrR .d), ([0xCB#8, 0x1E#8], .rrHl),
        ([0xCB#8, 0x23#8], .slaR .e), ([0xCB#8, 0x26#8], .slaHl), ([0xCB#8, 0x2C#8], .sraR .h), ([0xCB#8, 0x2E#8], .sraHl),
        ([0xCB#8, 0x35#8], .swapR .l), ([0xCB#8, 0x36#8], .swapHl), ([0xCB#8, 0x3F#8], .srlR .a), ([0xCB#8, 0x3E#8], .srlHl),
        ([0xCB#8, 0x7F#8], .bitBR 7 .a), ([0xCB#8, 0x46#8], .bitBHl 0), ([0xCB#8, 0xBF#8], .resBR 7 .a), ([0xCB#8, 0x8E#8], .resBHl 1),
        ([0xCB#8, 0xCB#8], .setBR 1 .e), ([0xCB#8, 0xFE#8], .setBHl 7)] = true := by
  decide

/-- R357: in the primary table alone 0xCB is the prefix byte. -/
theorem test_decode_prefix_row : decodePrimary 0xCB#8 0x37#8 0x00#8 = .prefixCb 0x37#8 := by decide

/-- Bytes that end inside an instruction are refused by name (R160). -/
theorem test_decode_refused :
    decode [] = .refused .noOpcode ∧ decode [0xC3#8, 0x50#8] = .refused (.operandMissing 0xC3#8) ∧
      decode [0xCB#8] = .refused (.operandMissing 0xCB#8) := by
  decide

/-! ### One step of one instruction -/

/-- The cells placed in memory. -/
def withCells (l : List (Word × Byte)) (s : State) : State := l.foldl (fun t e => placeByte e.1 e.2 t) s

/-- The start of a one-instruction vector (95_test_vectors.md section 1): the code at 0xC000, `F` clear, the cells and registers set. -/
def startAt (code : List Byte) (cells : List (Word × Byte)) (regs : Cpu → Cpu) : State :=
  let s := withCells cells (placeBytes 0xC000#16 code State.reset)
  { s with cpu := regs { s.cpu with pc := 0xC000#16, flags := .ofByte 0x00#8 } }

/-- One step from the start: the CPU, memory and `IE` as they were but for what is listed, that many ticks, and no fault. -/
def endsAs (code : List Byte) (cells : List (Word × Byte)) (regs : Cpu → Cpu) (cells' : List (Word × Byte)) (regs' : Cpu → Cpu)
    (ticks : Nat) : Bool :=
  let s := startAt code cells regs
  let e := withCells cells' s
  match step s with
  | .next t =>
    decide (t.cpu = regs' s.cpu) && decide (t.mem = e.mem) && decide (t.irq.ie = e.irq.ie) &&
      (cells'.all fun c => decide (busRead t c.1 = .byte c.2)) && decide (t.timer.div - s.timer.div = BitVec.ofNat 8 ticks) && running t
  | .fault _ => false
  | .refused _ => false

/-- One step from the start ends in a machine that holds the fault, the CPU as listed and memory as it was. -/
def raises (code : List Byte) (cells : List (Word × Byte)) (regs : Cpu → Cpu) (f : Fault) (regs' : Cpu → Cpu) : Bool :=
  let s := startAt code cells regs
  match step s with
  | .next t => decide (t.fault = some f) && decide (t.cpu = regs' s.cpu) && decide (t.mem = s.mem)
  | .fault _ => false
  | .refused _ => false

/-- R351. -/
theorem test_nop :
    endsAs [0x00#8] [] id
      [] (fun p => { p with pc := 0xC001#16 }) 1 = true := by
  decide

/-- R231. -/
theorem test_ldRrNn :
    endsAs [0x01#8, 0x34#8, 0x12#8] [] id
      [] (fun p => { p with b := 0x12#8, c := 0x34#8, pc := 0xC003#16 }) 3 = true := by
  decide

/-- R208. -/
theorem test_ldBcA :
    endsAs [0x02#8] [] (fun p => { p with b := 0xC1#8, c := 0x02#8, a := 0x10#8 })
      [(0xC102#16, 0x10#8)] (fun p => { p with pc := 0xC001#16 }) 2 = true := by
  decide

/-- R209. -/
theorem test_ldDeA :
    endsAs [0x12#8] [] (fun p => { p with d := 0xC1#8, e := 0xAA#8, a := 0x42#8 })
      [(0xC1AA#16, 0x42#8)] (fun p => { p with pc := 0xC001#16 }) 2 = true := by
  decide

/-- R216. -/
theorem test_ldHliA :
    endsAs [0x22#8] [] (fun p => { p with h := 0xFF#8, l := 0xFF#8, a := 0x1F#8 })
      [(0xFFFF#16, 0x1F#8)] (fun p => { p with h := 0x00#8, l := 0x00#8, pc := 0xC001#16 }) 2 = true := by
  decide

/-- R218. -/
theorem test_ldHldA :
    endsAs [0x32#8] [] (fun p => { p with h := 0xC1#8, l := 0x00#8, a := 0x05#8 })
      [(0xC100#16, 0x05#8)] (fun p => { p with h := 0xC0#8, l := 0xFF#8, pc := 0xC001#16 }) 2 = true := by
  decide

/-- R292. -/
theorem test_incRr :
    endsAs [0x13#8] [] (fun p => { p with d := 0xFF#8, e := 0xFF#8, flags := .ofByte 0xF0#8 })
      [] (fun p => { p with d := 0x00#8, e := 0x00#8, flags := .ofByte 0xF0#8, pc := 0xC001#16 }) 2 = true := by
  decide

/-- R293. -/
theorem test_decRr :
    endsAs [0x3B#8] [] (fun p => { p with sp := 0x0000#16 })
      [] (fun p => { p with sp := 0xFFFF#16, pc := 0xC001#16 }) 2 = true := by
  decide

/-- R275. -/
theorem test_incR :
    endsAs [0x04#8] [] (fun p => { p with b := 0xFF#8, flags := .ofByte 0x10#8 })
      [] (fun p => { p with b := 0x00#8, flags := .ofByte 0xB0#8, pc := 0xC001#16 }) 1 = true := by
  decide

/-- R276. -/
theorem test_incHl :
    endsAs [0x34#8] [(0xC100#16, 0xFF#8)] (fun p => { p with h := 0xC1#8, l := 0x00#8 })
      [(0xC100#16, 0x00#8)] (fun p => { p with flags := .ofByte 0xA0#8, pc := 0xC001#16 }) 3 = true := by
  decide

/-- R277. -/
theorem test_decR :
    endsAs [0x0D#8] [] (fun p => { p with c := 0x01#8, flags := .ofByte 0x10#8 })
      [] (fun p => { p with c := 0x00#8, flags := .ofByte 0xD0#8, pc := 0xC001#16 }) 1 = true := by
  decide

/-- R278. -/
theorem test_decHl :
    endsAs [0x35#8] [(0xC100#16, 0x00#8)] (fun p => { p with h := 0xC1#8, l := 0x00#8 })
      [(0xC100#16, 0xFF#8)] (fun p => { p with flags := .ofByte 0x60#8, pc := 0xC001#16 }) 3 = true := by
  decide

/-- R202. -/
theorem test_ldRN :
    endsAs [0x3E#8, 0x42#8] [] id
      [] (fun p => { p with a := 0x42#8, pc := 0xC002#16 }) 2 = true := by
  decide

/-- R205. -/
theorem test_ldHlN :
    endsAs [0x36#8, 0xA5#8] [] (fun p => { p with h := 0xFF#8, l := 0x80#8 })
      [(0xFF80#16, 0xA5#8)] (fun p => { p with pc := 0xC002#16 }) 3 = true := by
  decide +kernel

/-- R301. -/
theorem test_rlca :
    endsAs [0x07#8] [] (fun p => { p with a := 0x00#8, flags := .ofByte 0xF0#8 })
      [] (fun p => { p with a := 0x00#8, flags := .ofByte 0x00#8, pc := 0xC001#16 }) 1 = true := by
  decide

/-- R302. -/
theorem test_rrca :
    endsAs [0x0F#8] [] (fun p => { p with a := 0x3B#8 })
      [] (fun p => { p with a := 0x9D#8, flags := .ofByte 0x10#8, pc := 0xC001#16 }) 1 = true := by
  decide

/-- R303. -/
theorem test_rla :
    endsAs [0x17#8] [] (fun p => { p with a := 0x95#8, flags := .ofByte 0x10#8 })
      [] (fun p => { p with a := 0x2B#8, flags := .ofByte 0x10#8, pc := 0xC001#16 }) 1 = true := by
  decide

/-- R304. -/
theorem test_rra :
    endsAs [0x1F#8] [] (fun p => { p with a := 0x81#8, flags := .ofByte 0x00#8 })
      [] (fun p => { p with a := 0x40#8, flags := .ofByte 0x10#8, pc := 0xC001#16 }) 1 = true := by
  decide

/-- R279. -/
theorem test_daa :
    endsAs [0x27#8] [] (fun p => { p with a := 0x9A#8, flags := .ofByte 0x00#8 })
      [] (fun p => { p with a := 0x00#8, flags := .ofByte 0x90#8, pc := 0xC001#16 }) 1 = true := by
  decide

/-- R279. -/
theorem test_daa_second :
    endsAs [0x27#8] [] (fun p => { p with a := 0x0A#8, flags := .ofByte 0x40#8 })
      [] (fun p => { p with a := 0x0A#8, flags := .ofByte 0x40#8, pc := 0xC001#16 }) 1 = true := by
  decide

/-- R280. -/
theorem test_cpl :
    endsAs [0x2F#8] [] (fun p => { p with a := 0x35#8, flags := .ofByte 0x90#8 })
      [] (fun p => { p with a := 0xCA#8, flags := .ofByte 0xF0#8, pc := 0xC001#16 }) 1 = true := by
  decide

/-- R281. -/
theorem test_scf :
    endsAs [0x37#8] [] (fun p => { p with flags := .ofByte 0xE0#8 })
      [] (fun p => { p with flags := .ofByte 0x90#8, pc := 0xC001#16 }) 1 = true := by
  decide

/-- R282. -/
theorem test_ccf :
    endsAs [0x3F#8] [] (fun p => { p with flags := .ofByte 0xF0#8 })
      [] (fun p => { p with flags := .ofByte 0x80#8, pc := 0xC001#16 }) 1 = true := by
  decide

/-- R282. -/
theorem test_ccf_second :
    endsAs [0x3F#8] [] (fun p => { p with flags := .ofByte 0x00#8 })
      [] (fun p => { p with flags := .ofByte 0x10#8, pc := 0xC001#16 }) 1 = true := by
  decide

/-- R232. -/
theorem test_ldNnSp :
    endsAs [0x08#8, 0x00#8, 0xC1#8] [] (fun p => { p with sp := 0xFFF8#16 })
      [(0xC100#16, 0xF8#8), (0xC101#16, 0xFF#8)] (fun p => { p with pc := 0xC003#16 }) 5 = true := by
  decide

/-- R334. -/
theorem test_jrE :
    endsAs [0x18#8, 0xFE#8] [] id
      [] (fun p => { p with pc := 0xC000#16 }) 3 = true := by
  decide

/-- R334. -/
theorem test_jrE_second :
    endsAs [0x18#8, 0x80#8] [] id
      [] (fun p => { p with pc := 0xBF82#16 }) 3 = true := by
  decide

/-- R335. -/
theorem test_jrCcE :
    endsAs [0x28#8, 0x10#8] [] (fun p => { p with flags := .ofByte 0x80#8 })
      [] (fun p => { p with pc := 0xC012#16 }) 3 = true := by
  decide

/-- R335. -/
theorem test_jrCcE_second :
    endsAs [0x28#8, 0x10#8] [] (fun p => { p with flags := .ofByte 0x00#8 })
      [] (fun p => { p with pc := 0xC002#16 }) 2 = true := by
  decide

/-- R291. -/
theorem test_addHlRr :
    endsAs [0x09#8] [] (fun p => { p with h := 0x8A#8, l := 0x23#8, b := 0x06#8, c := 0x05#8, flags := .ofByte 0x80#8 })
      [] (fun p => { p with h := 0x90#8, l := 0x28#8, flags := .ofByte 0xA0#8, pc := 0xC001#16 }) 2 = true := by
  decide

/-- R291. -/
theorem test_addHlRr_second :
    endsAs [0x19#8] [] (fun p => { p with h := 0x0F#8, l := 0xFF#8, d := 0x00#8, e := 0x01#8, flags := .ofByte 0x00#8 })
      [] (fun p => { p with h := 0x10#8, l := 0x00#8, flags := .ofByte 0x20#8, pc := 0xC001#16 }) 2 = true := by
  decide

/-- R206. -/
theorem test_ldABc :
    endsAs [0x0A#8] [(0xC155#16, 0x2F#8)] (fun p => { p with b := 0xC1#8, c := 0x55#8 })
      [] (fun p => { p with a := 0x2F#8, pc := 0xC001#16 }) 2 = true := by
  decide

/-- R207. -/
theorem test_ldADe :
    endsAs [0x1A#8] [(0xC001#16, 0x1A#8)] (fun p => { p with d := 0xC0#8, e := 0x01#8 })
      [] (fun p => { p with a := 0x1A#8, pc := 0xC001#16 }) 2 = true := by
  decide

/-- R217. -/
theorem test_ldAHli :
    endsAs [0x2A#8] [(0xC1FF#16, 0x56#8)] (fun p => { p with h := 0xC1#8, l := 0xFF#8 })
      [] (fun p => { p with a := 0x56#8, h := 0xC2#8, l := 0x00#8, pc := 0xC001#16 }) 2 = true := by
  decide

/-- R219. -/
theorem test_ldAHld :
    endsAs [0x3A#8] [(0xC100#16, 0x3C#8)] (fun p => { p with h := 0xC1#8, l := 0x00#8 })
      [] (fun p => { p with a := 0x3C#8, h := 0xC0#8, l := 0xFF#8, pc := 0xC001#16 }) 2 = true := by
  decide

/-- R201. -/
theorem test_ldRR :
    endsAs [0x41#8] [] (fun p => { p with c := 0x9A#8 })
      [] (fun p => { p with b := 0x9A#8, pc := 0xC001#16 }) 1 = true := by
  decide

/-- R203. -/
theorem test_ldRHl :
    endsAs [0x66#8] [(0xC123#16, 0x77#8)] (fun p => { p with h := 0xC1#8, l := 0x23#8 })
      [] (fun p => { p with h := 0x77#8, pc := 0xC001#16 }) 2 = true := by
  decide

/-- R204. -/
theorem test_ldHlR :
    endsAs [0x75#8] [] (fun p => { p with h := 0xC1#8, l := 0xF0#8 })
      [(0xC1F0#16, 0xF0#8)] (fun p => { p with pc := 0xC001#16 }) 2 = true := by
  decide

/-- R352. -/
theorem test_halt :
    endsAs [0x76#8] [(0xFFFF#16, 0x00#8)] id
      [] (fun p => { p with halted := true, pc := 0xC001#16 }) 1 = true := by
  decide

/-- R251. -/
theorem test_addAR :
    endsAs [0x80#8] [] (fun p => { p with a := 0x3A#8, b := 0xC6#8 })
      [] (fun p => { p with a := 0x00#8, flags := .ofByte 0xB0#8, pc := 0xC001#16 }) 1 = true := by
  decide

/-- R252. -/
theorem test_addAHl :
    endsAs [0x86#8] [(0xC100#16, 0x01#8)] (fun p => { p with a := 0x0F#8, h := 0xC1#8, l := 0x00#8 })
      [] (fun p => { p with a := 0x10#8, flags := .ofByte 0x20#8, pc := 0xC001#16 }) 2 = true := by
  decide

/-- R254. -/
theorem test_adcAR :
    endsAs [0x8F#8] [] (fun p => { p with a := 0x80#8, flags := .ofByte 0x10#8 })
      [] (fun p => { p with a := 0x01#8, flags := .ofByte 0x10#8, pc := 0xC001#16 }) 1 = true := by
  decide

/-- R255. -/
theorem test_adcAHl :
    endsAs [0x8E#8] [(0xC100#16, 0x01#8)] (fun p => { p with a := 0x0E#8, h := 0xC1#8, l := 0x00#8, flags := .ofByte 0x10#8 })
      [] (fun p => { p with a := 0x10#8, flags := .ofByte 0x20#8, pc := 0xC001#16 }) 2 = true := by
  decide

/-- R257. -/
theorem test_subR :
    endsAs [0x93#8] [] (fun p => { p with a := 0x3E#8, e := 0x3E#8 })
      [] (fun p => { p with a := 0x00#8, flags := .ofByte 0xC0#8, pc := 0xC001#16 }) 1 = true := by
  decide

/-- R258. -/
theorem test_subHl :
    endsAs [0x96#8] [(0xC100#16, 0x40#8)] (fun p => { p with a := 0x3E#8, h := 0xC1#8, l := 0x00#8 })
      [] (fun p => { p with a := 0xFE#8, flags := .ofByte 0x50#8, pc := 0xC001#16 }) 2 = true := by
  decide

/-- R260. -/
theorem test_sbcAR :
    endsAs [0x98#8] [] (fun p => { p with a := 0x10#8, b := 0x0F#8, flags := .ofByte 0x10#8 })
      [] (fun p => { p with a := 0x00#8, flags := .ofByte 0xE0#8, pc := 0xC001#16 }) 1 = true := by
  decide

/-- R261. -/
theorem test_sbcAHl :
    endsAs [0x9E#8] [(0xC100#16, 0x4F#8)] (fun p => { p with a := 0x3B#8, h := 0xC1#8, l := 0x00#8, flags := .ofByte 0x10#8 })
      [] (fun p => { p with a := 0xEB#8, flags := .ofByte 0x70#8, pc := 0xC001#16 }) 2 = true := by
  decide

/-- R263. -/
theorem test_andR :
    endsAs [0xA5#8] [] (fun p => { p with a := 0x5A#8, l := 0x3F#8 })
      [] (fun p => { p with a := 0x1A#8, flags := .ofByte 0x20#8, pc := 0xC001#16 }) 1 = true := by
  decide

/-- R264. -/
theorem test_andHl :
    endsAs [0xA6#8] [(0xC100#16, 0x0F#8)] (fun p => { p with a := 0xF0#8, h := 0xC1#8, l := 0x00#8 })
      [] (fun p => { p with a := 0x00#8, flags := .ofByte 0xA0#8, pc := 0xC001#16 }) 2 = true := by
  decide

/-- R266. -/
theorem test_xorR :
    endsAs [0xAF#8] [] (fun p => { p with a := 0xFF#8 })
      [] (fun p => { p with a := 0x00#8, flags := .ofByte 0x80#8, pc := 0xC001#16 }) 1 = true := by
  decide

/-- R267. -/
theorem test_xorHl :
    endsAs [0xAE#8] [(0xC100#16, 0x8A#8)] (fun p => { p with a := 0xFF#8, h := 0xC1#8, l := 0x00#8 })
      [] (fun p => { p with a := 0x75#8, pc := 0xC001#16 }) 2 = true := by
  decide

/-- R269. -/
theorem test_orR :
    endsAs [0xB1#8] [] (fun p => { p with a := 0x00#8, c := 0x00#8, flags := .ofByte 0x70#8 })
      [] (fun p => { p with a := 0x00#8, flags := .ofByte 0x80#8, pc := 0xC001#16 }) 1 = true := by
  decide

/-- R270. -/
theorem test_orHl :
    endsAs [0xB6#8] [(0xC100#16, 0x0F#8)] (fun p => { p with a := 0x5A#8, h := 0xC1#8, l := 0x00#8 })
      [] (fun p => { p with a := 0x5F#8, pc := 0xC001#16 }) 2 = true := by
  decide

/-- R272. -/
theorem test_cpR :
    endsAs [0xB8#8] [] (fun p => { p with a := 0x3C#8, b := 0x2F#8 })
      [] (fun p => { p with flags := .ofByte 0x60#8, pc := 0xC001#16 }) 1 = true := by
  decide

/-- R273. -/
theorem test_cpHl :
    endsAs [0xBE#8] [(0xC100#16, 0x40#8)] (fun p => { p with a := 0x3C#8, h := 0xC1#8, l := 0x00#8 })
      [] (fun p => { p with flags := .ofByte 0x50#8, pc := 0xC001#16 }) 2 = true := by
  decide

/-- R339. -/
theorem test_retCc :
    endsAs [0xC0#8] [(0xC1FE#16, 0x03#8), (0xC1FF#16, 0xC0#8)] (fun p => { p with sp := 0xC1FE#16, flags := .ofByte 0x00#8 })
      [] (fun p => { p with sp := 0xC200#16, pc := 0xC003#16 }) 5 = true := by
  decide

/-- R339. -/
theorem test_retCc_second :
    endsAs [0xC0#8] [] (fun p => { p with sp := 0xC1FE#16, flags := .ofByte 0x80#8 })
      [] (fun p => { p with pc := 0xC001#16 }) 2 = true := by
  decide

/-- R215. -/
theorem test_ldhNA :
    endsAs [0xE0#8, 0xFF#8] [] (fun p => { p with a := 0x15#8 })
      [(0xFFFF#16, 0x15#8)] (fun p => { p with pc := 0xC002#16 }) 3 = true := by
  decide

/-- R294. -/
theorem test_addSpE :
    endsAs [0xE8#8, 0x81#8] [] (fun p => { p with sp := 0xFFFE#16 })
      [] (fun p => { p with sp := 0xFF7F#16, flags := .ofByte 0x10#8, pc := 0xC002#16 }) 4 = true := by
  decide

/-- R294. -/
theorem test_addSpE_second :
    endsAs [0xE8#8, 0x01#8] [] (fun p => { p with sp := 0x0FFF#16 })
      [] (fun p => { p with sp := 0x1000#16, flags := .ofByte 0x30#8, pc := 0xC002#16 }) 4 = true := by
  decide

/-- R214. -/
theorem test_ldhAN :
    endsAs [0xF0#8, 0x85#8] [(0xFF85#16, 0x21#8)] id
      [] (fun p => { p with a := 0x21#8, pc := 0xC002#16 }) 3 = true := by
  decide

/-- R234. -/
theorem test_ldHlSpE :
    endsAs [0xF8#8, 0xFF#8] [] (fun p => { p with sp := 0x0000#16 })
      [] (fun p => { p with h := 0xFF#8, l := 0xFF#8, flags := .ofByte 0x00#8, pc := 0xC002#16 }) 3 = true := by
  decide

/-- R234. -/
theorem test_ldHlSpE_second :
    endsAs [0xF8#8, 0x01#8] [] (fun p => { p with sp := 0x00FF#16, flags := .ofByte 0xF0#8 })
      [] (fun p => { p with h := 0x01#8, l := 0x00#8, flags := .ofByte 0x30#8, pc := 0xC002#16 }) 3 = true := by
  decide

/-- R236. -/
theorem test_popQq :
    endsAs [0xF1#8] [(0xC1FE#16, 0xFF#8), (0xC1FF#16, 0x12#8)] (fun p => { p with sp := 0xC1FE#16 })
      [] (fun p => { p with a := 0x12#8, flags := .ofByte 0xF0#8, sp := 0xC200#16, pc := 0xC001#16 }) 3 = true := by
  decide

/-- R236. -/
theorem test_popQq_second :
    endsAs [0xC1#8] [(0xFFFE#16, 0x77#8), (0xFFFF#16, 0x00#8)] (fun p => { p with sp := 0xFFFE#16 })
      [] (fun p => { p with c := 0x77#8, b := 0x00#8, sp := 0x0000#16, pc := 0xC001#16 }) 3 = true := by
  decide

/-- R338. -/
theorem test_ret :
    endsAs [0xC9#8] [(0xC1FE#16, 0x03#8), (0xC1FF#16, 0xC0#8)] (fun p => { p with sp := 0xC1FE#16 })
      [] (fun p => { p with sp := 0xC200#16, pc := 0xC003#16 }) 4 = true := by
  decide

/-- R340. -/
theorem test_reti :
    endsAs [0xD9#8] [(0xC1FE#16, 0x50#8), (0xC1FF#16, 0x01#8)] (fun p => { p with sp := 0xC1FE#16, ime := false })
      [] (fun p => { p with sp := 0xC200#16, ime := true, pc := 0x0150#16 }) 4 = true := by
  decide

/-- R333. -/
theorem test_jpHl :
    endsAs [0xE9#8] [] (fun p => { p with h := 0x40#8, l := 0x00#8 })
      [] (fun p => { p with pc := 0x4000#16 }) 1 = true := by
  decide

/-- R233. -/
theorem test_ldSpHl :
    endsAs [0xF9#8] [] (fun p => { p with h := 0xC2#8, l := 0x00#8 })
      [] (fun p => { p with sp := 0xC200#16, pc := 0xC001#16 }) 2 = true := by
  decide

/-- R332. -/
theorem test_jpCcNn :
    endsAs [0xC2#8, 0x00#8, 0x80#8] [] (fun p => { p with flags := .ofByte 0x00#8 })
      [] (fun p => { p with pc := 0x8000#16 }) 4 = true := by
  decide

/-- R332. -/
theorem test_jpCcNn_second :
    endsAs [0xC2#8, 0x00#8, 0x80#8] [] (fun p => { p with flags := .ofByte 0x80#8 })
      [] (fun p => { p with pc := 0xC003#16 }) 3 = true := by
  decide

/-- R213. -/
theorem test_ldhCA :
    endsAs [0xE2#8] [] (fun p => { p with c := 0x06#8, a := 0xAB#8 })
      [(0xFF06#16, 0xAB#8)] (fun p => { p with pc := 0xC001#16 }) 2 = true := by
  decide

/-- R211. -/
theorem test_ldNnA :
    endsAs [0xEA#8, 0xFE#8, 0xFF#8] [] (fun p => { p with a := 0x80#8 })
      [(0xFFFE#16, 0x80#8)] (fun p => { p with pc := 0xC003#16 }) 4 = true := by
  decide

/-- R212. -/
theorem test_ldhAC :
    endsAs [0xF2#8] [(0xFF90#16, 0x33#8)] (fun p => { p with c := 0x90#8 })
      [] (fun p => { p with a := 0x33#8, pc := 0xC001#16 }) 2 = true := by
  decide

/-- R210. -/
theorem test_ldANn :
    endsAs [0xFA#8, 0x34#8, 0xC1#8] [(0xC134#16, 0x99#8)] id
      [] (fun p => { p with a := 0x99#8, pc := 0xC003#16 }) 4 = true := by
  decide

/-- R331. -/
theorem test_jpNn :
    endsAs [0xC3#8, 0x00#8, 0x80#8] [] id
      [] (fun p => { p with pc := 0x8000#16 }) 4 = true := by
  decide

/-- R354. -/
theorem test_di :
    endsAs [0xF3#8] [] (fun p => { p with ime := true })
      [] (fun p => { p with ime := false, pc := 0xC001#16 }) 1 = true := by
  decide

/-- R355. -/
theorem test_ei :
    endsAs [0xFB#8] [] (fun p => { p with ime := false })
      [] (fun p => { p with ime := true, pc := 0xC001#16 }) 1 = true := by
  decide

/-- R337. -/
theorem test_callCcNn :
    endsAs [0xCC#8, 0x34#8, 0x12#8] [] (fun p => { p with sp := 0xFFFE#16, flags := .ofByte 0x00#8 })
      [] (fun p => { p with pc := 0xC003#16 }) 3 = true := by
  decide

/-- R337. -/
theorem test_callCcNn_second :
    endsAs [0xD4#8, 0x34#8, 0x12#8] [] (fun p => { p with sp := 0xD000#16, flags := .ofByte 0x00#8 })
      [(0xCFFF#16, 0xC0#8), (0xCFFE#16, 0x03#8)] (fun p => { p with sp := 0xCFFE#16, pc := 0x1234#16 }) 6 = true := by
  decide

/-- R235. -/
theorem test_pushQq :
    endsAs [0xF5#8] [] (fun p => { p with a := 0x12#8, flags := .ofByte 0xB0#8, sp := 0xC200#16 })
      [(0xC1FF#16, 0x12#8), (0xC1FE#16, 0xB0#8)] (fun p => { p with sp := 0xC1FE#16, pc := 0xC001#16 }) 4 = true := by
  decide

/-- R235. -/
theorem test_pushQq_second :
    endsAs [0xC5#8] [] (fun p => { p with b := 0x12#8, c := 0x34#8, sp := 0x0001#16 })
      [(0xFFFF#16, 0x34#8)] (fun p => { p with sp := 0xFFFF#16, pc := 0xC001#16 }) 4 = true := by
  decide

/-- R336. -/
theorem test_callNn :
    endsAs [0xCD#8, 0x34#8, 0x12#8] [] (fun p => { p with sp := 0xFFFE#16 })
      [(0xFFFD#16, 0xC0#8), (0xFFFC#16, 0x03#8)] (fun p => { p with sp := 0xFFFC#16, pc := 0x1234#16 }) 6 = true := by
  decide

/-- R253. -/
theorem test_addAN :
    endsAs [0xC6#8, 0x80#8] [] (fun p => { p with a := 0x80#8 })
      [] (fun p => { p with a := 0x00#8, flags := .ofByte 0x90#8, pc := 0xC002#16 }) 2 = true := by
  decide

/-- R256. -/
theorem test_adcAN :
    endsAs [0xCE#8, 0x01#8] [] (fun p => { p with a := 0xFF#8, flags := .ofByte 0x00#8 })
      [] (fun p => { p with a := 0x00#8, flags := .ofByte 0xB0#8, pc := 0xC002#16 }) 2 = true := by
  decide

/-- R259. -/
theorem test_subN :
    endsAs [0xD6#8, 0x01#8] [] (fun p => { p with a := 0x00#8 })
      [] (fun p => { p with a := 0xFF#8, flags := .ofByte 0x70#8, pc := 0xC002#16 }) 2 = true := by
  decide

/-- R262. -/
theorem test_sbcAN :
    endsAs [0xDE#8, 0xFF#8] [] (fun p => { p with a := 0x00#8, flags := .ofByte 0x10#8 })
      [] (fun p => { p with a := 0x00#8, flags := .ofByte 0xF0#8, pc := 0xC002#16 }) 2 = true := by
  decide

/-- R265. -/
theorem test_andN :
    endsAs [0xE6#8, 0x38#8] [] (fun p => { p with a := 0x5A#8 })
      [] (fun p => { p with a := 0x18#8, flags := .ofByte 0x20#8, pc := 0xC002#16 }) 2 = true := by
  decide

/-- R268. -/
theorem test_xorN :
    endsAs [0xEE#8, 0xFF#8] [] (fun p => { p with a := 0xAA#8, flags := .ofByte 0xF0#8 })
      [] (fun p => { p with a := 0x55#8, flags := .ofByte 0x00#8, pc := 0xC002#16 }) 2 = true := by
  decide

/-- R271. -/
theorem test_orN :
    endsAs [0xF6#8, 0x00#8] [] (fun p => { p with a := 0x00#8 })
      [] (fun p => { p with flags := .ofByte 0x80#8, pc := 0xC002#16 }) 2 = true := by
  decide

/-- R274. -/
theorem test_cpN :
    endsAs [0xFE#8, 0x90#8] [] (fun p => { p with a := 0x80#8 })
      [] (fun p => { p with a := 0x80#8, flags := .ofByte 0x50#8, pc := 0xC002#16 }) 2 = true := by
  decide

/-- R343. -/
theorem test_rstT :
    endsAs [0xEF#8] [] (fun p => { p with sp := 0xFFFE#16 })
      [(0xFFFD#16, 0xC0#8), (0xFFFC#16, 0x01#8)] (fun p => { p with sp := 0xFFFC#16, pc := 0x0028#16 }) 4 = true := by
  decide

/-- R305. -/
theorem test_rlcR :
    endsAs [0xCB#8, 0x00#8] [] (fun p => { p with b := 0x85#8 })
      [] (fun p => { p with b := 0x0B#8, flags := .ofByte 0x10#8, pc := 0xC002#16 }) 2 = true := by
  decide

/-- R306. -/
theorem test_rlcHl :
    endsAs [0xCB#8, 0x06#8] [(0xC100#16, 0x00#8)] (fun p => { p with h := 0xC1#8, l := 0x00#8, flags := .ofByte 0x10#8 })
      [(0xC100#16, 0x00#8)] (fun p => { p with flags := .ofByte 0x80#8, pc := 0xC002#16 }) 4 = true := by
  decide

/-- R307. -/
theorem test_rrcR :
    endsAs [0xCB#8, 0x09#8] [] (fun p => { p with c := 0x01#8 })
      [] (fun p => { p with c := 0x80#8, flags := .ofByte 0x10#8, pc := 0xC002#16 }) 2 = true := by
  decide

/-- R308. -/
theorem test_rrcHl :
    endsAs [0xCB#8, 0x0E#8] [(0xC100#16, 0x00#8)] (fun p => { p with h := 0xC1#8, l := 0x00#8 })
      [] (fun p => { p with flags := .ofByte 0x80#8, pc := 0xC002#16 }) 4 = true := by
  decide +kernel

/-- R309. -/
theorem test_rlR :
    endsAs [0xCB#8, 0x15#8] [] (fun p => { p with l := 0x80#8 })
      [] (fun p => { p with l := 0x00#8, flags := .ofByte 0x90#8, pc := 0xC002#16 }) 2 = true := by
  decide

/-- R310. -/
theorem test_rlHl :
    endsAs [0xCB#8, 0x16#8] [(0xC100#16, 0x11#8)] (fun p => { p with h := 0xC1#8, l := 0x00#8 })
      [(0xC100#16, 0x22#8)] (fun p => { p with pc := 0xC002#16 }) 4 = true := by
  decide

/-- R311. -/
theorem test_rrR :
    endsAs [0xCB#8, 0x1F#8] [] (fun p => { p with a := 0x01#8 })
      [] (fun p => { p with a := 0x00#8, flags := .ofByte 0x90#8, pc := 0xC002#16 }) 2 = true := by
  decide

/-- R312. -/
theorem test_rrHl :
    endsAs [0xCB#8, 0x1E#8] [(0xC100#16, 0x8A#8)] (fun p => { p with h := 0xC1#8, l := 0x00#8, flags := .ofByte 0x10#8 })
      [(0xC100#16, 0xC5#8)] (fun p => { p with flags := .ofByte 0x00#8, pc := 0xC002#16 }) 4 = true := by
  decide

/-- R313. -/
theorem test_slaR :
    endsAs [0xCB#8, 0x22#8] [] (fun p => { p with d := 0x80#8 })
      [] (fun p => { p with d := 0x00#8, flags := .ofByte 0x90#8, pc := 0xC002#16 }) 2 = true := by
  decide

/-- R314. -/
theorem test_slaHl :
    endsAs [0xCB#8, 0x26#8] [(0xC100#16, 0xFF#8)] (fun p => { p with h := 0xC1#8, l := 0x00#8 })
      [(0xC100#16, 0xFE#8)] (fun p => { p with flags := .ofByte 0x10#8, pc := 0xC002#16 }) 4 = true := by
  decide

/-- R315. -/
theorem test_sraR :
    endsAs [0xCB#8, 0x2F#8] [] (fun p => { p with a := 0x8A#8 })
      [] (fun p => { p with a := 0xC5#8, flags := .ofByte 0x00#8, pc := 0xC002#16 }) 2 = true := by
  decide

/-- R316. -/
theorem test_sraHl :
    endsAs [0xCB#8, 0x2E#8] [(0xC100#16, 0x01#8)] (fun p => { p with h := 0xC1#8, l := 0x00#8 })
      [(0xC100#16, 0x00#8)] (fun p => { p with flags := .ofByte 0x90#8, pc := 0xC002#16 }) 4 = true := by
  decide

/-- R317. -/
theorem test_swapR :
    endsAs [0xCB#8, 0x37#8] [] (fun p => { p with a := 0xF1#8, flags := .ofByte 0xF0#8 })
      [] (fun p => { p with a := 0x1F#8, flags := .ofByte 0x00#8, pc := 0xC002#16 }) 2 = true := by
  decide

/-- R318. -/
theorem test_swapHl :
    endsAs [0xCB#8, 0x36#8] [(0xC100#16, 0x00#8)] (fun p => { p with h := 0xC1#8, l := 0x00#8, flags := .ofByte 0x10#8 })
      [(0xC100#16, 0x00#8)] (fun p => { p with flags := .ofByte 0x80#8, pc := 0xC002#16 }) 4 = true := by
  decide

/-- R319. -/
theorem test_srlR :
    endsAs [0xCB#8, 0x3F#8] [] (fun p => { p with a := 0x01#8 })
      [] (fun p => { p with a := 0x00#8, flags := .ofByte 0x90#8, pc := 0xC002#16 }) 2 = true := by
  decide

/-- R320. -/
theorem test_srlHl :
    endsAs [0xCB#8, 0x3E#8] [(0xC100#16, 0xFF#8)] (fun p => { p with h := 0xC1#8, l := 0x00#8 })
      [(0xC100#16, 0x7F#8)] (fun p => { p with flags := .ofByte 0x10#8, pc := 0xC002#16 }) 4 = true := by
  decide

/-- R321. -/
theorem test_bitBR :
    endsAs [0xCB#8, 0x7F#8] [] (fun p => { p with a := 0x80#8, flags := .ofByte 0x10#8 })
      [] (fun p => { p with flags := .ofByte 0x30#8, pc := 0xC002#16 }) 2 = true := by
  decide

/-- R322. -/
theorem test_bitBHl :
    endsAs [0xCB#8, 0x46#8] [(0xC100#16, 0xFE#8)] (fun p => { p with h := 0xC1#8, l := 0x00#8, flags := .ofByte 0xC0#8 })
      [] (fun p => { p with flags := .ofByte 0xA0#8, pc := 0xC002#16 }) 3 = true := by
  decide

/-- R323. -/
theorem test_resBR :
    endsAs [0xCB#8, 0x87#8] [] (fun p => { p with a := 0xFF#8, flags := .ofByte 0xF0#8 })
      [] (fun p => { p with a := 0xFE#8, flags := .ofByte 0xF0#8, pc := 0xC002#16 }) 2 = true := by
  decide

/-- R324. -/
theorem test_resBHl :
    endsAs [0xCB#8, 0xBE#8] [(0xC100#16, 0xFF#8)] (fun p => { p with h := 0xC1#8, l := 0x00#8 })
      [(0xC100#16, 0x7F#8)] (fun p => { p with pc := 0xC002#16 }) 4 = true := by
  decide

/-- R325. -/
theorem test_setBR :
    endsAs [0xCB#8, 0xDB#8] [] (fun p => { p with e := 0x00#8 })
      [] (fun p => { p with e := 0x08#8, pc := 0xC002#16 }) 2 = true := by
  decide

/-- R326. -/
theorem test_setBHl :
    endsAs [0xCB#8, 0xFE#8] [(0xC100#16, 0x00#8)] (fun p => { p with h := 0xC1#8, l := 0x00#8 })
      [(0xC100#16, 0x80#8)] (fun p => { p with pc := 0xC002#16 }) 4 = true := by
  decide

/-! ### Faults -/

/-- R203, R80. -/
theorem test_ldRHl_unmapped :
    raises [0x7E#8] [] (fun p => { p with h := 0xE0#8, l := 0x00#8 }) (.unmappedAccess 0xE000#16 .read)
      (fun p => { p with pc := 0xC001#16 }) = true := by
  decide

/-- R353. -/
theorem test_stop :
    raises [0x10#8, 0x00#8] [] id (.unmodelledStop 0xC000#16) (fun p => { p with pc := 0xC001#16 }) = true := by
  decide

/-- R352, `HALT_PENDING_IME0 = fault`. -/
theorem test_halt_pending :
    raises [0x76#8] [(0xFFFF#16, 0x01#8)] id (.haltWithPendingInterrupt 0b00001#5) (fun p => { p with pc := 0xC001#16 }) = true := by
  decide

/-- R356: each illegal opcode records itself and its address. -/
theorem test_illegal_opcodes :
    ([0xD3#8, 0xDB#8, 0xDD#8, 0xE3#8, 0xE4#8, 0xEB#8, 0xEC#8, 0xED#8, 0xF4#8, 0xFC#8, 0xFD#8].all fun op =>
      raises [op] [] id (.illegalOpcode op 0xC000#16) fun p => { p with pc := 0xC001#16 }) = true := by
  decide

/-- R357: the meaning of the prefix row runs the instruction its byte selects (SWAP A, R317). -/
theorem test_prefixCb :
    exec (.prefixCb 0x37#8) (startAt [] [] fun p => { p with a := 0xF1#8 }) =
      .next (startAt [] [] fun p => { p with a := 0x1F#8 }) := rfl

/-- R143: the RAM window of a TypeB bank above 3 with the gate open. -/
theorem test_clock_bank_faults :
    busRead { State.reset with cart := { State.reset.cart with kind := .typeB, ramSize := 8192, ramEnable := true, ramBankReg := 8#4 } }
      0xA000#16 = .fault (.unmodelledMapperFeature 0xA000#16 8#4) := by
  decide

/-- Code in the registers: `HALT` in `SCX` at 0xFF43, then `LY` at 0xFF44, which is 0x76 at dot `dot` of its line and 0x77 on the next;
`HALT` refetches (R124, R352). -/
def haltAtLy (dot : Nat) (again : Bool) (pc : Word) : State :=
  { startAt [] [(0xFFFF#16, 0x01#8)] (fun p => { p with a := 0x5A#8, h := 0xC1#8, l := 0x00#8 }) with
    cfg := { Config.recommended with haltPendingIme0 := .refetch },
    cpu := { (startAt [] [] fun p => { p with a := 0x5A#8, h := 0xC1#8, l := 0x00#8 }).cpu with pc := pc },
    ppu := { State.reset.ppu with scx := 0x76#8, ly := 0x76#8, dot := dot, lx := 160, mode := .hBlank },
    haltAgain := again }

/-- R352: the byte re-read is `HALT` again, which is left to the next step; `PC` is not moved past it. -/
theorem test_halt_reread :
    (match step (haltAtLy 453 false 0xFF43#16) with
      | .next t => t.haltAgain && decide (t.cpu.pc = 0xFF44#16) && decide (t.ppu.dot = 455) && decide (t.ppu.ly = 0x76#8) && running t
      | .fault _ => false
      | .refused _ => false) = true := by
  decide +kernel

/-- R352: the next step reads the same address, where `LY` is 0x77 by now, and runs `LD (HL),A` (R204). -/
theorem test_halt_reread_ends :
    (match step (haltAtLy 455 true 0xFF44#16) with
      | .next t =>
        !t.haltAgain && decide (t.cpu.pc = 0xFF44#16) && decide (busRead t 0xC100#16 = .byte 0x5A#8) && decide (t.ppu.dot = 1) && running t
      | .fault _ => false
      | .refused _ => false) = true := by
  decide +kernel

/-- The fault record that power-up of an image with this header and length leaves. -/
def powerUpFault (t k c : Byte) (size : Nat) : Option Fault :=
  match powerUp ⟨[(0x147, t), (0x148, k), (0x149, c)], size⟩ none resetRecommended initialMemoryBlank Config.recommended with
  | .next s => s.fault
  | .fault _ => none
  | .refused _ => none

/-- 95_test_vectors.md section 5.10. -/
theorem test_powerUp_images :
    powerUpFault 0x05#8 0x00#8 0x00#8 32768 = some (.unsupportedMapper 0x05#8) ∧
      powerUpFault 0x00#8 0x07#8 0x00#8 32768 = some (.badRomImage 7) ∧ powerUpFault 0x00#8 0x00#8 0x06#8 32768 = some (.badRomImage 6) ∧
      powerUpFault 0x00#8 0x01#8 0x00#8 32768 = some (.badRomImage 1) ∧ powerUpFault 0x00#8 0x00#8 0x00#8 256 = some (.badRomImage 256) := by
  decide +kernel

/-- R132: an image that ends inside the header, behind byte 0x148, records the class byte. -/
theorem test_powerUp_short_header :
    powerUpFault 0x00#8 0x03#8 0x00#8 0x149 = some (.badRomImage 3) ∧ powerUpFault 0x00#8 0x03#8 0x00#8 0x14F = some (.badRomImage 3) := by
  decide +kernel

/-! ### Witnesses: states that meet the hypotheses of the statements -/

/-- Code and stack in work RAM, `HL` at a cell of work RAM. -/
def ready : State := startAt [0x00#8] [] fun p => { p with sp := 0xD000#16, h := 0xC1#8, l := 0x00#8 }

/-- As `ready`, with interrupts enabled and pending. -/
def pendingState (ie : Byte) (iflag : BitVec 5) (ime : Bool) : State :=
  { ready with irq := { ie := ie, iflag := iflag }, cpu := { ready.cpu with ime := ime } }

/-- As `ready`, with a choice for a pending interrupt under `HALT`. -/
def haltState (choice : HaltPending) : State :=
  { pendingState 0x10#8 0b10000#5 false with cfg := { Config.recommended with haltPendingIme0 := choice } }

theorem witness_DecodeOfEncode :
    (Instr.rstT 0x38#8).WellFormed = true ∧ ∀ sub, Instr.rstT 0x38#8 ≠ .prefixCb sub := ⟨rfl, fun _ h => nomatch h⟩

theorem witness_EncodeOfDecode : decode [0xC3#8, 0x50#8, 0x01#8, 0x99#8] = .instr (.jpNn 0x0150#16) [0x99#8] := by decide

theorem witness_PrefixRunsSelected : quiet ready = true ∧ storable ready ready.cpu.hl = true := by decide

/-- Three bytes across the top of the address space: the second is `IE`, the third the first byte of the ROM. -/
theorem witness_StepRunsDecodedInstruction :
    let s : State := { ready with cpu := { ready.cpu with pc := 0xFFFE#16 }, mem := { ready.mem with hram := setByte [] 126 0xC3#8 } }
    s.fault = none ∧ s.haltAgain = false ∧ (hostMoves s).cpu.halted = false ∧ (pendingInterrupts (hostMoves s) = 0#5 ∨ (hostMoves s).cpu.ime = false) ∧
      quiet (hostMoves s) = true ∧ decode [0xC3#8, 0x00#8, 0x00#8] = .instr (.jpNn 0x0000#16) [] ∧
      ∀ (k : Nat) (b : Byte), k < opLength 0xC3#8 → [0xC3#8, 0x00#8, 0x00#8][k]? = some b →
        deviceRegister (hostMoves s).colorMode ((hostMoves s).cpu.pc + BitVec.ofNat 16 k) = false ∧
          busRead (hostMoves s) ((hostMoves s).cpu.pc + BitVec.ofNat 16 k) = .byte b := by
  refine ⟨rfl, rfl, rfl, .inr rfl, rfl, by decide, fun k b hk hb => ?_⟩
  have hk : k < 3 := hk
  obtain rfl | rfl | rfl : k = 0 ∨ k = 1 ∨ k = 2 := by omega
  all_goals
    obtain rfl := Option.some.inj hb
    decide

theorem witness_StepOutcomes :
    step { ready with fault := some (.unmodelledStop 0xC000#16) } = .fault (.unmodelledStop 0xC000#16) ∧ ready.fault = none := ⟨rfl, rfl⟩

/-- A `HALT` still to be run, in a state that has a next one. -/
theorem witness_HaltAgainStaysInPlace :
    (haltAtLy 455 true 0xFF44#16).haltAgain = true ∧ haltInPlace (haltAtLy 455 true 0xFF44#16) = true ∧
      (match step (haltAtLy 455 true 0xFF44#16) with
        | .next _ => true
        | .fault _ => false
        | .refused _ => false) = true := by
  decide +kernel

theorem witness_HaltedStep :
    let s : State := { ready with cpu := { ready.cpu with halted := true } }
    (s.fault = none ∧ s.hostQueue = [] ∧ s.haltAgain = false ∧ s.cpu.halted = true ∧ pendingInterrupts s = 0#5) ∧
      let u := pendingState 0x10#8 0b10000#5 false
      u.fault = none ∧ u.hostQueue = [] ∧ u.haltAgain = false ∧ pendingInterrupts u ≠ 0#5 := by
  decide

/-- The first and the last source. -/
theorem witness_InterruptDispatch :
    let ok := fun (s : State) (i : Fin 5) =>
      s.fault = none ∧ s.hostQueue = [] ∧ s.haltAgain = false ∧ s.cpu.ime = true ∧ quiet s = true ∧
        (s.irq.ie.getLsbD i.val = true ∧ s.irq.iflag.getLsbD i.val = true) ∧
        (∀ j : Nat, j < i.val → (s.irq.ie.getLsbD j && s.irq.iflag.getLsbD j) = false) ∧
        storable s (s.cpu.sp - 1#16) = true ∧ storable s (s.cpu.sp - 2#16) = true
    ok (pendingState 0x1F#8 0b11111#5 true) 0 ∧ ok (pendingState 0x10#8 0b11111#5 true) 4 := by
  decide

theorem witness_MemoryLoads :
    (loadForm (.ldRHl .h) ready = some (.h, 0xC100#16) ∧ quiet ready = true ∧ readable ready 0xC100#16 = true) ∧
      (loadForm (.ldhAN 0xFF#8) ready = some (.a, 0xFFFF#16) ∧ readable ready 0xFFFF#16 = true) ∧
      quiet ready = true ∧ readable ready ready.cpu.hl = true := by
  decide

theorem witness_MemoryStores :
    (storeForm (.ldHlR .l) ready = some (0xC100#16, 0x00#8) ∧ quiet ready = true ∧ storable ready 0xC100#16 = true) ∧
      (storeForm (.ldNnA 0x7FFF#16) ready = some (0x7FFF#16, 0x01#8) ∧ storable ready 0x7FFF#16 = true) ∧
      quiet ready = true ∧ storable ready ready.cpu.hl = true := by
  decide

/-- The first and the last unowned address below the I/O page, and one in it; and both ends of the RAM window of a TypeB bank above 3. -/
theorem witness_UnownedAddressFaults :
    let s : State := { ready with cart := { ready.cart with kind := .typeB, ramSize := 8192, ramEnable := true, ramBankReg := 4#4 } }
    let low : State := { s with cpu := { s.cpu with h := 0xA0#8, l := 0x00#8 } }
    let unowned : State := { s with cpu := { s.cpu with h := 0xFE#8, l := 0xFF#8 } }
    quiet s = true ∧
      (loadForm (.ldANn 0xE000#16) s = some (.a, 0xE000#16) ∧ trapAt s 0xE000#16 .read = some (.unmappedAccess 0xE000#16 .read)) ∧
      (storeForm (.ldNnA 0xBFFF#16) s = some (0xBFFF#16, 0x01#8) ∧
        trapAt s 0xBFFF#16 .write = some (.unmodelledMapperFeature 0xBFFF#16 4#4)) ∧
      (trapAt low low.cpu.hl .read = some (.unmodelledMapperFeature 0xA000#16 4#4)) ∧
      (trapAt unowned unowned.cpu.hl .write = some (.unmappedAccess 0xFEFF#16 .write)) ∧
      trapAt s 0xFF03#16 .read = some (.unmappedAccess 0xFF03#16 .read) := by
  decide

theorem witness_StoreThenLoad :
    quiet ready = true ∧ placeOf ready 0xFFFF#16 = some .ie ∧ placeOf ready 0xDFFF#16 = some (.wram 8191) := by decide

theorem witness_quiet_only : quiet ready = true := by decide

theorem witness_StackTransfers :
    (quiet ready = true ∧ storable ready (ready.cpu.sp - 1#16) = true ∧ storable ready (ready.cpu.sp - 2#16) = true) ∧
      (readable ready ready.cpu.sp = true ∧ readable ready (ready.cpu.sp + 1#16) = true) ∧
      storable ready 0xFFFE#16 = true ∧ storable ready (0xFFFE#16 + 1#16) = true := by
  decide

/-- `SP` at 0, so that the first byte pushed is `IE`. -/
theorem witness_PushThenPop :
    let s : State := { ready with cpu := { ready.cpu with sp := 0x0000#16 } }
    quiet s = true ∧ placeOf s (s.cpu.sp - 1#16) = some .ie ∧ placeOf s (s.cpu.sp - 2#16) = some (.hram 126) ∧
      MemPlace.ie ≠ .hram 126 := by
  decide

theorem witness_AluOnMemory : quiet ready = true ∧ readable ready ready.cpu.hl = true := by decide

theorem witness_ReadModifyWrite :
    (modifyForm (.setBHl 7)).isSome = true ∧ (modifyForm .decHl).isSome = true ∧ quiet ready = true ∧
      storable ready ready.cpu.hl = true := by
  decide

theorem witness_DecimalArithmetic :
    (0 < 100 ∧ 99 < 100) ∧ (startAt [] [] fun p => { p with a := 0x99#8 }).cpu.a = bcd 99 ∧
      (startAt [] [] fun p => { p with a := 0x00#8 }).cpu.a = bcd 0 := by
  decide

theorem witness_Returns :
    (quiet ready = true ∧ readable ready ready.cpu.sp = true ∧ readable ready (ready.cpu.sp + 1#16) = true) ∧
      condHolds .z ready.cpu.flags = false ∧ condHolds .nz ready.cpu.flags = true := by
  decide

theorem witness_CallThenReturn :
    quiet ready = true ∧ placeOf ready (ready.cpu.sp - 1#16) = some (.wram 4095) ∧
      placeOf ready (ready.cpu.sp - 2#16) = some (.wram 4094) ∧ MemPlace.wram 4095 ≠ .wram 4094 := by
  decide

theorem witness_StopAndIllegalOpcodes : illegalByte .illegalD3 = some 0xD3#8 ∧ illegalByte .illegalFD = some 0xFD#8 := by decide

/-- One state for each case of `HALT`. -/
theorem witness_Halt :
    pendingInterrupts ready = 0#5 ∧
      (pendingInterrupts (pendingState 0x01#8 0b00001#5 true) ≠ 0#5 ∧ (pendingState 0x01#8 0b00001#5 true).cpu.ime = true) ∧
      (∀ c : HaltPending, c ∈ [.nop, .fault, .refetch] →
        pendingInterrupts (haltState c) ≠ 0#5 ∧ (haltState c).cpu.ime = false ∧ (haltState c).cfg.haltPendingIme0 = c) := by
  refine ⟨by decide, by decide, fun c _ => ?_⟩
  cases c <;> decide

/-- Under `refetch`: the byte after the `HALT` is read and is no `HALT`; it is `HALT`; its read faults; and the read of its operand
faults. A `HALT` still to be run has a step. -/
theorem witness_Halt_refetch :
    (∃ u t, memRead (haltState .refetch).cpu.pc (haltState .refetch) = .ok 0x00#8 u ∧ fetchOperands 0x00#8 u = .ok .nop t ∧
      Instr.nop ≠ .halt) ∧
      (∃ u t, memRead 0xFF44#16 (haltAtLy 100 false 0xFF44#16) = .ok 0x76#8 u ∧ fetchOperands 0x76#8 u = .ok .halt t) ∧
      (∃ u, memRead 0xE000#16 (haltAtLy 100 false 0xE000#16) = .raised u) ∧
      (∃ u t, memRead 0xFF02#16 (haltAtLy 100 false 0xFF02#16) = .ok 0x7E#8 u ∧ fetchOperands 0x3E#8 (u.setPc 0xFF03#16) = .raised t) ∧
      (haltAtLy 100 true 0xFF44#16).fault = none ∧ (haltAtLy 100 true 0xFF44#16).haltAgain = true :=
  ⟨⟨_, _, rfl, rfl, by decide⟩, ⟨_, _, rfl, rfl⟩, ⟨_, rfl⟩, ⟨_, _, rfl, rfl⟩, rfl, rfl⟩

/-- An instruction outside each of the four lists. -/
theorem witness_WritersOfLatchesAndPointers :
    ∃ t, exec (.addAR .b) ready = .next t ∧ Instr.addAR .b ≠ .ei ∧ Instr.addAR .b ≠ .di ∧ Instr.addAR .b ≠ .reti ∧
      Instr.addAR .b ≠ .halt ∧ movesPc (.addAR .b) = false ∧ movesSp (.addAR .b) = false :=
  ⟨_, rfl, by decide, by decide, by decide, by decide, rfl, rfl⟩

/-- `HALT` itself where it runs no other instruction. -/
theorem witness_WritersOfLatches_halt : ∃ t, exec .halt ready = .next t ∧ ready.cfg.haltPendingIme0 ≠ .refetch :=
  ⟨_, rfl, by decide⟩

theorem witness_FlagsKeptByTheRest :
    (∃ t, exec (.popQq .bc) ready = .next t) ∧ keepsFlags (.popQq .bc) = true ∧ keepsFlags (.popQq .af) = false :=
  ⟨⟨_, rfl⟩, rfl, rfl⟩

/-- The invariants, the mapper's and the VRAM DMA's among them, in a state that has a next one. -/
theorem witness_invariants :
    ∃ t, step ready = .next t ∧ memoryCanonical ready = true ∧ ppuInPlace ready = true ∧ arraysInRange ready = true ∧
      mapperInRange ready.cart = true ∧ hdmaInRange ready.colour = true ∧ haltInPlace ready = true :=
  ⟨_, rfl, by decide, by decide, by decide, by decide, by decide, by decide⟩

/-- Each clause of power-up: the largest legal classes, an unsupported mapper byte, a bank class and a RAM class one too high, an image
one byte short of its banks, one inside the header, and one that ends before the header. -/
theorem witness_PowerUpFromHeader :
    let im := fun (t k c : Byte) => (⟨[(0x147, t), (0x148, k), (0x149, c)], 2097152⟩ : Image)
    (∀ t k c : Byte, imageByte (im t k c) 0x147 = some t ∧ imageByte (im t k c) 0x148 = some k ∧ imageByte (im t k c) 0x149 = some c) ∧
      (mapperOfByte 0x1B#8 = some .typeB ∧ Config.recommended.romBanks[(0x06#8 : Byte).toNat]? = some 128 ∧
        Config.recommended.ramSizeBytes[(0x05#8 : Byte).toNat]? = some 65536 ∧ 0x150 ≤ 2097152 ∧ 16384 * 128 ≤ 2097152) ∧
      ((0x05#8 : Byte).toNat ∉ [0x00, 0x01, 0x02, 0x03, 0x10, 0x13, 0x1B]) ∧
      (mapperOfByte 0x00#8 ≠ none ∧ (0x07#8 : Byte).toNat > 6) ∧ ((0x06#8 : Byte).toNat ≤ 6 ∧ (0x06#8 : Byte).toNat > 5) ∧
      (Config.recommended.romBanks[(0x00#8 : Byte).toNat]? = some 2 ∧ (0x05#8 : Byte).toNat ≤ 5 ∧ 32767 < 16384 * 2 ∧ 0x14F < 0x150) ∧
      0x147 ≤ 0x147 := by
  refine ⟨fun t k c => ⟨rfl, rfl, rfl⟩, by decide, by decide, by decide, by decide, by decide, by decide⟩

theorem witness_SerialCountdown :
    ready.irq.iflag.getLsbD 3 = false ∧ 0 < ready.cfg.serialDelayTicks ∧ (0x80#8 : Byte) ≠ 0x81#8 := by decide

theorem witness_ButtonSnapshot :
    (4 : Nat) ≠ 3 ∧ ({ Config.recommended with joypadIrq := .never } : Config).joypadIrq = .never ∧
      ({ Config.recommended with joypadIrq := .onPress } : Config).joypadIrq = .onPress := by decide

theorem witness_FrameGeometry : quiet ready = true ∧ ppuInPlace ready = true ∧ ready.ppu.lcdc.getLsbD 7 = true := by decide

theorem witness_LcdSwitch :
    (ready.ppu.lcdc.getLsbD 7 = true ∧ (0x7F#8 : Byte).getLsbD 7 = false) ∧
      let off : State := { ready with ppu := { ready.ppu with lcdc := 0x7F#8 } }
      off.ppu.lcdc.getLsbD 7 = false ∧ (0x80#8 : Byte).getLsbD 7 = true := by
  decide

/-- A cell that is not the pixel's; a blank background; and the last entry of OAM showing index 1 at the last pixel of line 0. -/
theorem witness_PixelOutput :
    (ready.ppu.lx + 1 ≠ 160 * ready.ppu.ly.toNat + ready.ppu.lx) ∧
      (let s : State := { ready with ppu := { ready.ppu with lcdc := 0x80#8 } }
       s.colorMode = false ∧ s.ppu.lcdc.getLsbD 0 = false ∧ spriteLane s s.ppu.lx s.ppu.ly.toNat = none) ∧
      let s : State := { ready with
        ppu := { ready.ppu with lcdc := 0x83#8 },
        mem := { ready.mem with oam := [(156, 0x10#8), (157, 0xA0#8)], vram := [(0, 0xFF#8)] } }
      spriteLane s 159 0 = some (1#2, 0x00#8) := by
  decide +kernel

/-- A page of work RAM, and the first and the last page with no owner. -/
theorem witness_OamDmaCopies :
    quiet ready = true ∧
      (∀ i : Nat, i < 160 →
        deviceRegister ready.colorMode (0xC1#8 ++ BitVec.ofNat 8 i) = false ∧ readable ready (0xC1#8 ++ BitVec.ofNat 8 i) = true) ∧
      (0xE0 ≤ (0xE0#8 : Byte).toNat ∧ (0xE0#8 : Byte).toNat ≤ 0xFD) ∧ 0xE0 ≤ (0xFD#8 : Byte).toNat ∧ (0xFD#8 : Byte).toNat ≤ 0xFD := by
  decide +kernel

/-- No transfer; a paced one with one block left; a source just below VRAM; and the largest block count. -/
theorem witness_VramDma :
    (ready.colorMode = false ∨ ready.colour.hdmaActive = false) ∧
      (let s : State := { ready with
        colorMode := true, colour := { ready.colour with hdmaActive := true, hdmaLeft := 1, hdmaSrc := 0x7FF0#16 } }
       s.colorMode = true ∧ s.colour.hdmaActive = true ∧ (match copyBlock s with | .ok _ _ => true | .raised _ => false) = true ∧
        ∀ i : Nat, i < 16 →
          deviceRegister s.colorMode (s.colour.hdmaSrc + BitVec.ofNat 16 i) = false ∧
            readable s (s.colour.hdmaSrc + BitVec.ofNat 16 i) = true ∧
            ((s.colour.hdmaSrc + BitVec.ofNat 16 i).toNat < 0x8000 ∨ 0xA000 ≤ (s.colour.hdmaSrc + BitVec.ofNat 16 i).toNat)) ∧
      hdmaInRange { ready.colour with hdmaLeft := 128, hdmaActive := true } = true := by
  decide +kernel

/-- A write of `HDMA5`: the abort and the paced start; a copy of two blocks that ends just below VRAM; and the first and the last page
with no owner. -/
theorem witness_VramDma_write :
    let s : State := { ready with colorMode := true, colour := { ready.colour with hdma1 := 0x7F#8, hdma2 := 0xEF#8, hdmaActive := false } }
    s.colorMode = true ∧ ({ s.colour with hdmaActive := true } : Colour).hdmaActive = true ∧ (0x7F#8 : Byte).getLsbD 7 = false ∧
      (0x80#8 : Byte).getLsbD 7 = true ∧
      (s.colour.hdmaActive = false ∧ (0x01#8 : Byte).getLsbD 7 = false ∧
        ∀ i : Nat, i < 16 * ((0x01#8 : Byte).toNat % 128 + 1) →
          let a := ((s.colour.hdma1 ++ s.colour.hdma2) &&& 0xFFF0#16) + BitVec.ofNat 16 i
          deviceRegister s.colorMode a = false ∧ readable s a = true ∧ (a.toNat < 0x8000 ∨ 0xA000 ≤ a.toNat)) ∧
      (0xE0 ≤ (0xE0#8 : Byte).toNat ∧ (0xFD#8 : Byte).toNat ≤ 0xFD) := by
  decide +kernel

theorem witness_MapperRegisterWrites : (0x0000#16 : Word).toNat < 0x8000 ∧ (0x7FFF#16 : Word).toNat < 0x8000 := by decide

/-- The ends of the three windows; no RAM, a closed gate, and a bank above 3. -/
theorem witness_CartridgeWindows :
    (0x3FFF#16 : Word).toNat < 0x4000 ∧ (0x4000 ≤ (0x7FFF#16 : Word).toNat ∧ (0x7FFF#16 : Word).toNat < 0x8000) ∧
      (0xA000 ≤ (0xBFFF#16 : Word).toNat ∧ (0xBFFF#16 : Word).toNat < 0xC000 ∧
        (ready.cart.ramSize = 0 ∨ (ready.cart.kind ≠ .none ∧ ready.cart.ramEnable = false))) ∧
      let c : Cart := { ready.cart with kind := .typeB, ramSize := 8192, ramEnable := true, ramBankReg := 4#4 }
      c.ramSize ≠ 0 ∧ c.kind = .typeB ∧ c.ramEnable = true ∧ 3 < c.ramBankReg.toNat := by
  decide

end Sys2Proof.Tests
end

/-!
The register file (10_state.md R20 to R28): the flags byte and the pair views.
-/

namespace Sys2Proof.Machine

/-- The bits of `F`, the lowest first (R27). -/
theorem Flags.getElem_toByte (f : Flags) (i : Nat) (hi : i < 8) :
    f.toByte[i] = [false, false, false, false, f.c, f.h, f.n, f.z][i] := by
  obtain ⟨z, n, h, c⟩ := f
  revert i
  cases z <;> cases n <;> cases h <;> cases c <;> decide

/-- A byte written to `F` and read again has lost its bits 3 to 0 (R22). -/
@[simp] theorem Flags.toByte_ofByte (v : Byte) : (Flags.ofByte v).toByte = v &&& 0xF0#8 := by
  apply BitVec.eq_of_getElem_eq
  intro i hi
  rw [Flags.getElem_toByte]
  interval_cases i <;> simp [Flags.ofByte]

/-- Settles O19: a pair is stored as its two bytes and nowhere else, so each view is the other by definition; only the low byte of `AF`
is masked on the way in (`Flags.toByte_ofByte`). -/
theorem pairViews : Obligations.PairViews := by
  intro p v x y
  refine ⟨?read, ?writeBc, ?writeDe, ?writeHl, ?writeAf, ?writeBytes⟩
  case read => exact ⟨rfl, rfl, rfl, rfl⟩
  case writeBc => exact ⟨rfl, rfl⟩
  case writeDe => exact ⟨rfl, rfl⟩
  case writeHl => exact ⟨rfl, rfl⟩
  case writeAf => exact ⟨rfl, Flags.toByte_ofByte (lowByte v)⟩
  case writeBytes => exact ⟨rfl, rfl, rfl⟩

end Sys2Proof.Machine

/-!
The cartridge mapper (21_cartridge_mapper.md R136 to R143): the bus below 0x8000 and in the RAM window, and the registers' fields.
-/

namespace Sys2Proof.Machine

/-! ### The two windows on the bus -/

/-- The ROM owns every address below 0x8000 (R71); the converse of `busOwner_rom`. -/
theorem busOwner_of_lt_0x8000 {colour : Bool} {a : Word} (h : a.toNat < 0x8000) : busOwner colour a = .rom a.toNat := by
  simp [busOwner, h]

/-- The cartridge RAM owns 0xA000 to 0xBFFF (R71); the converse of `busOwner_cartRam`. -/
theorem busOwner_of_ramWindow {colour : Bool} {a : Word} (hlo : 0xA000 ≤ a.toNat) (hhi : a.toNat < 0xC000) :
    busOwner colour a = .cartRam (a.toNat - 0xA000) := by
  have hrom : ¬ a.toNat < 0x8000 := by omega
  have hvram : ¬ a.toNat < 0xA000 := by omega
  simp [busOwner, hrom, hvram, hhi]

theorem busRead_of_lt_0x8000 {s : State} {a : Word} (h : a.toNat < 0x8000) :
    busRead s a = .byte (byteAt s.mem.rom (romIndex s.cart a.toNat)) := by
  simp [busRead, busOwner_of_lt_0x8000 h]

theorem busWrite_of_lt_0x8000 {s : State} {a : Word} (v : Byte) (h : a.toNat < 0x8000) :
    busWrite a v s = .ok () { s with cart := mapperRegisterWrite s.cart a.toNat v } := by
  simp [busWrite, busOwner_of_lt_0x8000 h]

/-! ### The fields of a written byte -/

/-- The low `k` bits of a byte as a register of `w` bits. -/
theorem setWidth_low_bits (v : Byte) (k w : Nat) : (v.extractLsb' 0 k).setWidth w = BitVec.ofNat w (v.toNat % 2 ^ k) := by
  apply BitVec.eq_of_toNat_eq
  simp

/-- The low `k` bits of a byte as a register of exactly `k` bits. -/
theorem extractLsb'_low_bits (v : Byte) (k : Nat) : v.extractLsb' 0 k = BitVec.ofNat k (v.toNat % 2 ^ k) := by
  rw [← setWidth_low_bits, BitVec.setWidth_eq]

/-- The latch opens when the low four bits of the written byte are 0xA (R140, R142). -/
theorem gate_eq_decide (v : Byte) : (v.extractLsb' 0 4 == 0xA#4) = decide (v.toNat % 16 = 10) := by
  rw [Bool.eq_iff_iff, beq_iff_eq, decide_eq_true_iff, ← BitVec.toNat_inj]
  simp

/-- Folding a bank number of the register's range replaces a 0 by 1 (R140, R142). -/
theorem foldBank_ofNat {n : Nat} (h : n < 2 ^ 7) : foldBank (BitVec.ofNat 7 n) = BitVec.ofNat 7 (max n 1) := by
  cases n with
  | zero => rfl
  | succ m =>
    have hne : BitVec.ofNat 7 (m + 1) ≠ 0#7 := fun h0 => by
      have hmod := congrArg BitVec.toNat h0
      simp only [BitVec.toNat_ofNat, Nat.mod_eq_of_lt h] at hmod
      omega
    simp [foldBank, hne]

/-- Settles O59: below 0x8000 the write is `RegisterWrite` alone (`busWrite_of_lt_0x8000`), and each field it stores is the named low
bits of the byte. -/
theorem mapperRegisterWrites : Obligations.MapperRegisterWrites := by
  intro s a v ha bits gate
  have hgate : (v.extractLsb' 0 4 == 0xA#4) = gate := gate_eq_decide v
  have hrom5 : foldBank ((v.extractLsb' 0 5).setWidth 7) = BitVec.ofNat 7 (max (bits 5) 1) := by
    rw [setWidth_low_bits, foldBank_ofNat (by omega)]
  have hrom7 : foldBank (v.extractLsb' 0 7) = BitVec.ofNat 7 (max (bits 7) 1) := by
    rw [extractLsb'_low_bits, foldBank_ofNat (by omega)]
  have hram2 : (v.extractLsb' 0 2).setWidth 4 = BitVec.ofNat 4 (bits 2) := setWidth_low_bits v 2 4
  have hram4 : v.extractLsb' 0 4 = BitVec.ofNat 4 (bits 4) := extractLsb'_low_bits v 4
  have hmode : v.getLsbD 0 = decide (bits 1 = 1) := Nat.testBit_zero v.toNat
  rw [busWrite_of_lt_0x8000 v ha]
  cases hk : s.cart.kind with
  | none => simp only [mapperRegisterWrite, hk]
  | typeA => simp only [mapperRegisterWrite, hk, hgate, hrom5, hram2, hmode]
  | typeB =>
    simp only [mapperRegisterWrite, hk, hgate, hrom7]
    rw [hram4]

/-! ### What the ROM windows show -/

theorem romIndex_low {c : Cart} {n : Nat} (h : n < 0x4000) : romIndex c n = 16384 * lowBank c + n := by
  simp [romIndex, h]

theorem romIndex_high {c : Cart} {n : Nat} (h : 0x4000 ≤ n) : romIndex c n = 16384 * highBank c + (n - 0x4000) := by
  simp [romIndex, Nat.not_lt.mpr h]

/-! ### The RAM gate -/

/-- With no RAM, or with the gate of a mapper closed, the RAM window reaches nothing (R139). -/
theorem ramAccess_closed {c : Cart} (off : Nat) (h : c.ramSize = 0 ∨ (c.kind ≠ .none ∧ c.ramEnable = false)) :
    ramAccess c off = .closed := by
  rcases h with h | h <;> simp [ramAccess, h]

theorem busRead_ramWindow_closed {s : State} {a : Word} (hlo : 0xA000 ≤ a.toNat) (hhi : a.toNat < 0xC000)
    (h : s.cart.ramSize = 0 ∨ (s.cart.kind ≠ .none ∧ s.cart.ramEnable = false)) :
    busRead s a = .byte s.cfg.ramDisabledSentinel := by
  simp [busRead, busOwner_of_ramWindow hlo hhi, ramAccess_closed _ h]

theorem busWrite_ramWindow_closed {s : State} {a : Word} (v : Byte) (hlo : 0xA000 ≤ a.toNat) (hhi : a.toNat < 0xC000)
    (h : s.cart.ramSize = 0 ∨ (s.cart.kind ≠ .none ∧ s.cart.ramEnable = false)) :
    busWrite a v s = .ok () s := by
  simp [busWrite, busOwner_of_ramWindow hlo hhi, ramAccess_closed _ h]

/-- Settles O60: each window is its owner's access, the ROM's by the bank of the window for each mapper, the RAM's by its gate. -/
theorem cartridgeWindows : Obligations.CartridgeWindows := by
  intro s a
  refine ⟨?lowWindow, ?highWindow, ?gateClosed, ?bankUnmodelled⟩
  case lowWindow =>
    intro h
    rw [busRead_of_lt_0x8000 (by omega), romIndex_low h]
    cases hk : s.cart.kind with
    | none => simp [lowBank, hk]
    | typeA => cases hm : s.cart.bankMode <;> simp [lowBank, hk, hm, Nat.mul_comm]
    | typeB => simp [lowBank, hk]
  case highWindow =>
    intro hlo hhi
    rw [busRead_of_lt_0x8000 hhi, romIndex_high hlo]
    cases hk : s.cart.kind with
    | none =>
      have hbank1 : 16384 * 1 + (a.toNat - 0x4000) = a.toNat := by omega
      simp only [highBank, hk, hbank1]
    | typeA => simp [highBank, hk, Nat.mul_comm]
    | typeB => simp [highBank, hk]
  case gateClosed =>
    intro hlo hhi h
    exact ⟨busRead_ramWindow_closed hlo hhi h, fun v => busWrite_ramWindow_closed v hlo hhi h⟩
  case bankUnmodelled =>
    intro hlo hhi hsize hkind hopen hbank
    apply busRead_trap
    simp [trapAt, busOwner_of_ramWindow hlo hhi, hsize, hkind, hopen, hbank]

end Sys2Proof.Machine

/-!
The step of a machine that the host leaves alone (60_exceptions.md R400 to R403): the halted tick, and the end of the halt state.
-/

namespace Sys2Proof.Machine

/-! ### The parts of a step -/

/-- An operation without a result has ended well or has raised, in the state it reaches. -/
theorem Res.eq_ok_or_raised (r : Res Unit) : r = .ok () r.final ∨ r = .raised r.final := by
  cases r with
  | ok a s => exact .inl rfl
  | raised s => exact .inr rfl

/-- An operation that ends the step ends it in the state it reaches, whether or not it has raised (R401, log 4). -/
@[simp] theorem planEnd_eq (r : Res Unit) : planEnd r = .over r.final := by cases r <;> rfl

theorem hostMoves_of_queue_nil {s : State} (h : s.hostQueue = []) : hostMoves s = s := by
  simp only [hostMoves, h]

/-- The halted tick (R403). -/
theorem planFetch_halted {s : State} (h : s.cpu.halted = true) : planFetch s = .over (tick s).final := by
  simp [planFetch, h]

/-- Some source is the lowest of those that are pending (R407). -/
theorem exists_lowestSetBit {p : BitVec 5} (h : p ≠ 0#5) : ∃ i, lowestSetBit p = some i := by
  revert p
  decide

/-! ### The end of the halt state -/

/-- A pending source ends the halt state before `IME` is looked at, so the plan is the one of the machine that is not halted (R402). -/
theorem stepPlan_setHalted {s : State} (h : pendingInterrupts s ≠ 0#5) : stepPlan s = stepPlan (s.setHalted false) := by
  obtain ⟨i, hi⟩ := exists_lowestSetBit h
  have hj : lowestSetBit (pendingInterrupts (s.setHalted false)) = some i := hi
  rw [stepPlan, hi, stepPlan, hj]
  rfl

/-- Two machines that neither are faulted nor have a `HALT` still to be run, and that have the same plan, take the same step. -/
theorem step_eq_of_stepPlan_eq {s t : State} (hs : s.fault = none) (has : s.haltAgain = false) (ht : t.fault = none)
    (hat : t.haltAgain = false) (h : stepPlan (hostMoves s) = stepPlan (hostMoves t)) : step s = step t := by
  rcases hp : stepPlan (hostMoves s) with u | ⟨i, u⟩
  · rw [step_over hs has hp, step_over ht hat (h.symm.trans hp)]
  · rw [step_run hs has hp, step_run ht hat (h.symm.trans hp)]

/-- A halted machine with nothing pending takes a tick for its step (R403). -/
theorem step_halted {s : State} (hf : s.fault = none) (hq : s.hostQueue = []) (ha : s.haltAgain = false)
    (hh : s.cpu.halted = true) (hp : pendingInterrupts s = 0#5) : step s = .next (tick s).final := by
  apply step_over hf ha
  rw [hostMoves_of_queue_nil hq, stepPlan_noInterrupt hp, planFetch_halted hh]

/-- A machine with a source pending takes the step of the machine that is not halted (R402). -/
theorem step_setHalted {s : State} (hf : s.fault = none) (hq : s.hostQueue = []) (ha : s.haltAgain = false)
    (hp : pendingInterrupts s ≠ 0#5) : step s = step (s.setHalted false) := by
  have hplan : stepPlan (hostMoves s) = stepPlan (hostMoves (s.setHalted false)) := by
    rw [hostMoves_of_queue_nil hq, hostMoves_of_queue_nil (s := s.setHalted false) hq, stepPlan_setHalted hp]
  exact step_eq_of_stepPlan_eq hf ha hf ha hplan

/-- Settles O9: the step of a halted machine is its tick (`step_halted`), which keeps the CPU however it ends (`tick_clockKept`); with a
source pending, the plan is made for the machine that is no longer halted (`stepPlan_setHalted`). -/
theorem haltedStep : Obligations.HaltedStep := by
  refine ⟨?haltedTick, ?haltEnds⟩
  case haltedTick =>
    intro s hf hq ha hh hp
    refine ⟨(tick s).final, (tick s).eq_ok_or_raised, step_halted hf hq ha hh hp, (tick_clockKept s).cpu, fun hquiet => ?_⟩
    obtain ⟨u, hu⟩ := tick_ticks hquiet
    rw [hu.run]
    exact hu
  case haltEnds =>
    intro s hf hq ha hp
    exact step_setHalted hf hq ha hp

end Sys2Proof.Machine

/-!
The joypad register (61_timer_serial_joypad.md R461): a read of 0xFF00, bit by bit.
-/

namespace Sys2Proof.Machine

/-- 0xFF00 is the joypad's register in both modes (R71, R79). -/
theorem busOwner_joyp (colour : Bool) : busOwner colour 0xFF00#16 = .io .joyp := by
  cases colour <;> decide

theorem busRead_joyp (s : State) : busRead s 0xFF00#16 = .byte (0b11#2 ++ s.joypad.sel ++ joypadLow s.joypad) := by
  simp only [busRead, busOwner_joyp, ioRead]

/-- Bits written one after the other, the highest first, are read back one by one. -/
theorem getLsbD_ofBool_append (b₃ b₂ b₁ b₀ : Bool) (k : Nat) :
    (BitVec.ofBool b₃ ++ BitVec.ofBool b₂ ++ BitVec.ofBool b₁ ++ BitVec.ofBool b₀).getLsbD k = [b₀, b₁, b₂, b₃].getD k false := by
  simp only [BitVec.getLsbD_append, BitVec.getLsbD_ofBool]
  rcases k with _ | _ | _ | _ | k <;> simp

/-- The low nibble, the lowest bit first: each bit belongs to one direction and one button (R461). -/
theorem joypadLow_getLsbD (j : Joypad) (k : Nat) :
    (joypadLow j).getLsbD k =
      [!(!j.sel.getLsbD 0 && j.buttons.right || !j.sel.getLsbD 1 && j.buttons.a),
        !(!j.sel.getLsbD 0 && j.buttons.left || !j.sel.getLsbD 1 && j.buttons.b),
        !(!j.sel.getLsbD 0 && j.buttons.up || !j.sel.getLsbD 1 && j.buttons.select),
        !(!j.sel.getLsbD 0 && j.buttons.down || !j.sel.getLsbD 1 && j.buttons.start)].getD k false := by
  simp only [joypadLow, getLsbD_ofBool_append, beq_false]

/-- Settles O52: the byte read is the two ones, the select bits and the low nibble side by side (`busRead_joyp`), and each bit of the
nibble is clear by one direction or one button (`joypadLow_getLsbD`). -/
theorem joypadRead : Obligations.JoypadRead := by
  intro s dirs btns
  refine ⟨_, busRead_joyp s, ?ones7, ?ones6, ?select5, ?select4, ?low3, ?low2, ?low1, ?low0⟩
  case ones7 | ones6 | select5 | select4 =>
    rw [BitVec.getLsbD_append, BitVec.getLsbD_append]
    rfl
  case low3 | low2 | low1 | low0 =>
    rw [BitVec.getLsbD_append, joypadLow_getLsbD]
    rfl

end Sys2Proof.Machine

/-!
The LCD switch (62_ppu.md R481, R486, R487, R493): a write of 0xFF40, by what it does to bit 7.
-/

namespace Sys2Proof.Machine

/-! ### The write of `LCDC` -/

/-- 0xFF40 is `LCDC` in both modes (R71, R79). -/
theorem busOwner_lcdc (colour : Bool) : busOwner colour 0xFF40#16 = .io .lcdc := by
  cases colour <;> decide

theorem busWrite_lcdc (v : Byte) (s : State) : busWrite 0xFF40#16 v s = .ok () (writeLcdc v s) := by
  simp only [busWrite, busOwner_lcdc, ioWrite]

/-- Bit 7 cleared: the byte is stored and the PPU switched off (R486). -/
theorem writeLcdc_off {v : Byte} {s : State} (hold : lcdcBit s 7 = true) (hv : v.getLsbD 7 = false) :
    writeLcdc v s = ppuOff { s with ppu := { s.ppu with lcdc := v } } := by
  simp only [writeLcdc, hold, hv, and_self, if_true]

/-- Bit 7 set: the byte is stored and oam-scan entered (R487). -/
theorem writeLcdc_on {v : Byte} {s : State} (hold : lcdcBit s 7 = false) (hv : v.getLsbD 7 = true) :
    writeLcdc v s = enterMode .oamScan { s with ppu := { s.ppu with lcdc := v } } := by
  simp only [writeLcdc, hold, hv, Bool.false_eq_true, false_and, and_self, if_false, if_true]

/-! ### What the switch runs -/

/-- Entering oam-scan requests the STAT interrupt where `STAT[5]`, the stored bit 2, enables it (R493). -/
theorem enterMode_oamScan (s : State) :
    enterMode .oamScan s =
      { s with
        ppu := { s.ppu with mode := .oamScan },
        irq := if s.ppu.stat.getLsbD 2 then { s.irq with iflag := s.irq.iflag ||| 0b00010#5 } else s.irq } := by
  have hbit : statBit s 5 = s.ppu.stat.getLsbD 2 := rfl
  cases h : s.ppu.stat.getLsbD 2 with
  | false => simp only [enterMode, hbit, h, Bool.false_eq_true, if_false]
  | true =>
    simp only [enterMode, hbit, h, if_true]
    rfl

theorem ppuDot_off {s : State} (h : lcdcBit s 7 = false) : ppuDot s = .ok () s := by
  simp [ppuDot, h]

/-- Settles O55: each edge of bit 7 runs its own branch of the write (`writeLcdc_off`, `writeLcdc_on`); switching off is no mode entry
and so requests nothing, switching on is one (`enterMode_oamScan`). -/
theorem lcdSwitch : Obligations.LcdSwitch := by
  intro s v
  refine ⟨?off, ?dot, ?on⟩
  case off =>
    intro hold hv
    rw [busWrite_lcdc, writeLcdc_off hold hv]
    rfl
  case dot => exact ppuDot_off
  case on =>
    intro hold hv
    rw [busWrite_lcdc, writeLcdc_on hold hv, enterMode_oamScan]

end Sys2Proof.Machine

/-!
The encoding (30_encoding.md R160 to R173): the decoder's tables read as the encoder's bytes, and the encoder's bytes decoded.
-/

namespace Sys2Proof

open Sys2Proof.Machine

/-! ### The fields of an opcode byte -/

/-- An opcode byte is put together from its three fields (R161). -/
theorem octal_fields (op : Byte) : octal (opX op) (opY op) (opZ op) = op := by
  apply BitVec.eq_of_toNat_eq
  have hlt := op.isLt
  simp only [octal, opX, opY, opZ, BitVec.toNat_ofNat]
  omega

theorem opX_lt (op : Byte) : opX op < 4 := by
  have hlt := op.isLt
  simp only [opX]
  omega

theorem opY_lt (op : Byte) : opY op < 8 := Nat.mod_lt _ (by decide)

theorem opZ_lt (op : Byte) : opZ op < 8 := Nat.mod_lt _ (by decide)

/-! ### What the tables give, encoded again -/

/-- The bytes behind an opcode byte, as many as its length says (R160): the operand byte `n`, or the operand word `nn`. -/
def operandBytes (op : Byte) (n : Byte) (nn : Word) : List Byte :=
  match opLength op with
  | 2 => [n]
  | 3 => wordBytes nn
  | _ => []

theorem encode_decodeBlock0 (y z : Fin 8) (n : Byte) (nn : Word) :
    encode (decodeBlock0 y z n nn) = octal 0 y z :: operandBytes (octal 0 y z) n nn := by
  fin_cases z <;> fin_cases y <;> rfl

theorem encode_decodeBlock1 (y z : Fin 8) (n : Byte) (nn : Word) :
    encode (decodeBlock1 y z) = octal 1 y z :: operandBytes (octal 1 y z) n nn := by
  fin_cases z <;> fin_cases y <;> rfl

theorem encode_decodeBlock2 (y z : Fin 8) (n : Byte) (nn : Word) :
    encode (decodeBlock2 y z) = octal 2 y z :: operandBytes (octal 2 y z) n nn := by
  fin_cases z <;> fin_cases y <;> rfl

theorem encode_decodeBlock3 (y z : Fin 8) (n : Byte) (nn : Word) :
    encode (decodeBlock3 y z n nn) = octal 3 y z :: operandBytes (octal 3 y z) n nn := by
  fin_cases z <;> fin_cases y <;> rfl

/-- What holds of the four blocks at every pair of fields holds of the primary table (R169). -/
theorem decodePrimary_cases {P : Byte → Instr → Prop} (lo hi : Byte)
    (h0 : ∀ y z : Fin 8, P (octal 0 y z) (decodeBlock0 y z lo (hi ++ lo))) (h1 : ∀ y z : Fin 8, P (octal 1 y z) (decodeBlock1 y z))
    (h2 : ∀ y z : Fin 8, P (octal 2 y z) (decodeBlock2 y z)) (h3 : ∀ y z : Fin 8, P (octal 3 y z) (decodeBlock3 y z lo (hi ++ lo)))
    (op : Byte) : P op (decodePrimary op lo hi) := by
  have hx : opX op = 0 ∨ opX op = 1 ∨ opX op = 2 ∨ opX op = 3 := by
    have := opX_lt op
    omega
  have at_fields {x : Nat} {i : Instr} (h : opX op = x) (hP : P (octal x (opY op) (opZ op)) i) : P op i := by
    rwa [← h, octal_fields] at hP
  rcases hx with h | h | h | h <;> simp only [decodePrimary, h] <;> apply at_fields h
  · exact h0 ⟨_, opY_lt op⟩ ⟨_, opZ_lt op⟩
  · exact h1 ⟨_, opY_lt op⟩ ⟨_, opZ_lt op⟩
  · exact h2 ⟨_, opY_lt op⟩ ⟨_, opZ_lt op⟩
  · exact h3 ⟨_, opY_lt op⟩ ⟨_, opZ_lt op⟩

theorem encode_decodePrimary (op lo hi : Byte) : encode (decodePrimary op lo hi) = op :: operandBytes op lo (hi ++ lo) :=
  decodePrimary_cases (P := fun op i => encode i = op :: operandBytes op lo (hi ++ lo)) lo hi
    (fun y z => encode_decodeBlock0 y z lo _) (fun y z => encode_decodeBlock1 y z lo _) (fun y z => encode_decodeBlock2 y z lo _)
    (fun y z => encode_decodeBlock3 y z lo _) op

theorem encode_decodeCb : ∀ sub : Byte, encode (decodeCb sub) = [0xCB#8, sub] := by decide

/-- The bytes of a decoded instruction are the opcode byte and as many of the operand bytes as its length says. -/
theorem encode_decodeInstr (op lo hi : Byte) : encode (decodeInstr op lo hi) = op :: operandBytes op lo (hi ++ lo) := by
  by_cases h : op = 0xCB#8
  · subst h
    exact encode_decodeCb lo
  · simp only [decodeInstr, h, if_false, encode_decodePrimary]

theorem wordBytes_append (lo hi : Byte) : wordBytes (hi ++ lo) = [lo, hi] := by
  have hlow : (hi ++ lo : Word).extractLsb' 0 8 = lo := lowByte_joinBytes hi lo
  have hhigh : (hi ++ lo : Word).extractLsb' 8 8 = hi := highByte_joinBytes hi lo
  rw [wordBytes, hlow, hhigh]

/-! ### Well-formedness -/

theorem wellFormed_decodePrimary (op lo hi : Byte) : (decodePrimary op lo hi).WellFormed = true :=
  decodePrimary_cases (P := fun _ i => i.WellFormed = true) lo hi (fun y z => by fin_cases z <;> fin_cases y <;> rfl)
    (fun y z => by fin_cases z <;> fin_cases y <;> rfl) (fun y z => by fin_cases z <;> fin_cases y <;> rfl)
    (fun y z => by fin_cases z <;> fin_cases y <;> rfl) op

theorem wellFormed_decodeCb : ∀ sub : Byte, (decodeCb sub).WellFormed = true := by decide

theorem wellFormed_decodeInstr (op lo hi : Byte) : (decodeInstr op lo hi).WellFormed = true := by
  unfold decodeInstr
  split
  · exact wellFormed_decodeCb lo
  · exact wellFormed_decodePrimary op lo hi

/-! ### Decoding by length -/

theorem decode_one {op : Byte} (h : opLength op = 1) (rest : List Byte) :
    decode (op :: rest) = .instr (decodeInstr op 0x00#8 0x00#8) rest := by
  simp only [decode, h]

theorem decode_two {op : Byte} (h : opLength op = 2) (lo : Byte) (rest : List Byte) :
    decode (op :: lo :: rest) = .instr (decodeInstr op lo 0x00#8) rest := by
  simp only [decode, h]

theorem decode_three {op : Byte} (h : opLength op = 3) (lo hi : Byte) (rest : List Byte) :
    decode (op :: lo :: hi :: rest) = .instr (decodeInstr op lo hi) rest := by
  simp only [decode, h]

/-- Everything a decoding can have been: an opcode byte with as many operand bytes as its length asks for. -/
theorem decode_cases {op : Byte} {tail rest : List Byte} {i : Instr} (h : decode (op :: tail) = .instr i rest) :
    (opLength op = 1 ∧ tail = rest ∧ i = decodeInstr op 0x00#8 0x00#8) ∨
      (opLength op = 2 ∧ ∃ lo, tail = lo :: rest ∧ i = decodeInstr op lo 0x00#8) ∨
      (opLength op = 3 ∧ ∃ lo hi, tail = lo :: hi :: rest ∧ i = decodeInstr op lo hi) := by
  rcases opLength_cases op with hlen | hlen | hlen
  · rw [decode_one hlen] at h
    cases h
    exact .inl ⟨hlen, rfl, rfl⟩
  · rcases tail with _ | ⟨lo, tail⟩
    · simp only [decode, hlen] at h
      cases h
    · rw [decode_two hlen] at h
      cases h
      exact .inr (.inl ⟨hlen, lo, rfl, rfl⟩)
  · rcases tail with _ | ⟨lo, _ | ⟨hi, tail⟩⟩
    · simp only [decode, hlen] at h
      cases h
    · simp only [decode, hlen] at h
      cases h
    · rw [decode_three hlen] at h
      cases h
      exact .inr (.inr ⟨hlen, lo, hi, rfl, rfl⟩)

/-- Settles O2: a decoding reads an opcode byte and the operand bytes of its length (`decode_cases`), which are the bytes of the
instruction the tables give for them (`encode_decodeInstr`). -/
theorem encodeOfDecode : Obligations.EncodeOfDecode := by
  intro bytes i rest h
  cases bytes with
  | nil => cases h
  | cons op tail =>
    rcases decode_cases h with ⟨hlen, rfl, rfl⟩ | ⟨hlen, lo, rfl, rfl⟩ | ⟨hlen, lo, hi, rfl, rfl⟩ <;>
      refine ⟨wellFormed_decodeInstr _ _ _, ?_⟩ <;> rw [encode_decodeInstr] <;>
      simp only [operandBytes, hlen, wordBytes_append, List.cons_append, List.nil_append]

/-! ### The encoder's bytes, decoded -/

/-- An operand word is read from its two bytes, low byte first (R162, R163). -/
theorem decode_wordBytes {op : Byte} {f : Word → Instr}
    (h : ∀ (lo hi : Byte) rest, decode (op :: lo :: hi :: rest) = .instr (f (hi ++ lo)) rest)
    (nn : Word) (rest : List Byte) : decode (op :: wordBytes nn ++ rest) = .instr (f nn) rest := by
  have hjoin : highByte nn ++ lowByte nn = nn := joinBytes_high_low nn
  rw [← congrArg f hjoin]
  exact h (lowByte nn) (highByte nn) rest

/-- The targets of `RST` (R343). -/
theorem decodeInstr_rst : ∀ t : Byte, t &&& 0xC7#8 = 0x00#8 → decodeInstr (0xC7#8 ||| t) 0x00#8 0x00#8 = .rstT t := by
  decide

theorem decode_rst {t : Byte} (h : t &&& 0xC7#8 = 0x00#8) (rest : List Byte) :
    decode (encode (.rstT t) ++ rest) = .instr (.rstT t) rest := by
  have hdecode := decode_one (Laws.EncodedLength.opLength_rst t h) rest
  rwa [decodeInstr_rst t h] at hdecode

theorem decode_encode (i : Instr) (rest : List Byte) (hwf : i.WellFormed = true) (hprefix : ∀ sub, i ≠ .prefixCb sub) :
    decode (encode i ++ rest) = .instr i rest := by
  cases i with
  | prefixCb sub => exact absurd rfl (hprefix sub)
  | rstT t => exact decode_rst (by simpa [Instr.WellFormed] using hwf) rest
  | ldRrNn rr nn => exact decode_wordBytes (f := .ldRrNn rr) (fun _ _ _ => by cases rr <;> rfl) nn rest
  | jpCcNn cc nn => exact decode_wordBytes (f := .jpCcNn cc) (fun _ _ _ => by cases cc <;> rfl) nn rest
  | callCcNn cc nn => exact decode_wordBytes (f := .callCcNn cc) (fun _ _ _ => by cases cc <;> rfl) nn rest
  | ldNnSp nn => exact decode_wordBytes (f := .ldNnSp) (fun _ _ _ => rfl) nn rest
  | ldNnA nn => exact decode_wordBytes (f := .ldNnA) (fun _ _ _ => rfl) nn rest
  | ldANn nn => exact decode_wordBytes (f := .ldANn) (fun _ _ _ => rfl) nn rest
  | jpNn nn => exact decode_wordBytes (f := .jpNn) (fun _ _ _ => rfl) nn rest
  | callNn nn => exact decode_wordBytes (f := .callNn) (fun _ _ _ => rfl) nn rest
  | incRr rr | decRr rr | addHlRr rr => cases rr <;> rfl
  | popQq qq | pushQq qq => cases qq <;> rfl
  | jrCcE cc _ | retCc cc => cases cc <;> rfl
  | ldRR r r' => cases r <;> cases r' <;> rfl
  | bitBR bn r | resBR bn r | setBR bn r => fin_cases bn <;> cases r <;> rfl
  | bitBHl bn | resBHl bn | setBHl bn => fin_cases bn <;> rfl
  | incR r | decR r | ldRN r _ | ldRHl r | ldHlR r | addAR r | adcAR r | subR r | sbcAR r | andR r | xorR r | orR r | cpR r | rlcR r
  | rrcR r | rlR r | rrR r | slaR r | sraR r | swapR r | srlR r => cases r <;> rfl
  | _ => rfl

/-- Settles O1: the bytes of every form are read back as that form (`decode_encode`), and the byte 0xCB reads as the instruction of
the byte after it, by the decoder's definition (R357). -/
theorem decodeOfEncode : Obligations.DecodeOfEncode :=
  ⟨decode_encode, fun _ _ => rfl⟩

/-! ### Fixed words and the illegal opcodes -/

/-- Settles O3: each word is decoded by the tables. -/
theorem wordsDecode : Obligations.WordsDecode := by
  unfold Obligations.WordsDecode
  decide

/-- The opcode bytes that name no instruction (R171). -/
def illegalOpcodes : List Byte :=
  [0xD3#8, 0xDB#8, 0xDD#8, 0xE3#8, 0xE4#8, 0xEB#8, 0xEC#8, 0xED#8, 0xF4#8, 0xFC#8, 0xFD#8]

theorem illegalByte_decodeCb : ∀ sub : Byte, illegalByte (decodeCb sub) = none := by decide

theorem illegalByte_decodePrimary (op lo hi : Byte) :
    illegalByte (decodePrimary op lo hi) = if op ∈ illegalOpcodes then some op else none :=
  decodePrimary_cases (P := fun op i => illegalByte i = if op ∈ illegalOpcodes then some op else none) lo hi
    (fun y z => by fin_cases z <;> fin_cases y <;> rfl) (fun y z => by fin_cases z <;> fin_cases y <;> rfl)
    (fun y z => by fin_cases z <;> fin_cases y <;> rfl) (fun y z => by fin_cases z <;> fin_cases y <;> rfl) op

/-- Settles O4: no prefixed instruction is illegal, and the primary table has the eleven, each at its own byte. -/
theorem illegalOpcodesExactly : Obligations.IllegalOpcodesExactly := by
  intro op lo hi
  by_cases h : op = 0xCB#8
  · subst h
    exact illegalByte_decodeCb lo
  · rw [decodeInstr, if_neg h]
    exact illegalByte_decodePrimary op lo hi

end Sys2Proof

/-!
What every instruction and every step keeps: a property that the clock, a bus write, the raising of a fault and the CPU writes of an
instruction keep is kept by that instruction; one that every CPU write, the host's moves and the clearing of a request keep as well is
kept by every step.
-/

namespace Sys2Proof.Machine

variable {R : Cpu → Cpu → Prop} {P : State → Prop}

/-! ### What an instruction is made of -/

/-- `P` is kept by everything that reading and fetching is made of, where `R` says which changes of the CPU are made. -/
structure ReadClosed (R : Cpu → Cpu → Prop) (P : State → Prop) : Prop where
  cpu : ∀ {s : State} (p : Cpu), R s.cpu p → P s → P (s.withCpu p)
  raise : ∀ {s : State} (f : Fault), P s → P { s with fault := some f }
  tick : ∀ {s : State}, P s → P (tick s).final

/-- `P` is kept by everything the meaning of an instruction is made of. -/
structure Closed (R : Cpu → Cpu → Prop) (P : State → Prop) : Prop extends ReadClosed R P where
  write : ∀ {s : State} (a : Word) (v : Byte), P s → P (busWrite a v s).final

namespace ReadClosed

theorem memRead (h : ReadClosed R P) {s : State} (a : Word) (hs : P s) : P (memRead a s).final := by
  have hread {t : State} (ht : P t) : P (busReadOp a t).final := by
    unfold busReadOp
    split
    · exact ht
    · exact h.raise _ ht
  unfold Machine.memRead
  split
  · exact Res.andThen_final (h.tick hs) fun _ _ _ ht => hread ht
  · exact Res.andThen_final (hread hs) fun _ _ _ ht => Res.andThen_final (h.tick ht) fun _ _ _ hu => hu

theorem pop16 (h : ReadClosed R P) (hsp : ∀ p v, R p { p with sp := v }) {s : State} (hs : P s) : P (pop16 s).final := by
  have hbyte {t : State} (ht : P t) : P (popByte t).final :=
    Res.andThen_final (h.memRead _ ht) fun _ _ _ hu => h.cpu _ (hsp _ _) hu
  exact Res.andThen_final (hbyte hs) fun _ _ _ ht => Res.andThen_final (hbyte ht) fun _ _ _ hu => hu

theorem fetch8 (h : ReadClosed R P) (hpc : ∀ p v, R p { p with pc := v }) {s : State} (hs : P s) : P (fetch8 s).final :=
  Res.andThen_final (h.memRead _ hs) fun _ _ _ ht => h.cpu _ (hpc _ _) ht

theorem fetchOperands (h : ReadClosed R P) (hpc : ∀ p v, R p { p with pc := v }) {s : State} (op : Byte) (hs : P s) :
    P (fetchOperands op s).final := by
  unfold Machine.fetchOperands
  split
  · exact Res.andThen_final (h.fetch8 hpc hs) fun _ _ _ ht => ht
  · exact Res.andThen_final (h.fetch8 hpc hs) fun _ _ _ ht => Res.andThen_final (h.fetch8 hpc ht) fun _ _ _ hu => hu
  · exact hs

theorem fetchInstr (h : ReadClosed R P) (hpc : ∀ p v, R p { p with pc := v }) {s : State} (hs : P s) : P (fetchInstr s).final :=
  Res.andThen_final (h.fetch8 hpc hs) fun _ _ _ ht => h.fetchOperands hpc _ ht

theorem refetchInstr (h : ReadClosed R P) (hpc : ∀ p v, R p { p with pc := v }) {s : State} (hs : P s) : P (refetchInstr s).final :=
  Res.andThen_final (h.memRead _ hs) fun _ _ _ ht => h.fetchOperands hpc _ ht

theorem jumpTo (h : ReadClosed R P) (hpc : ∀ p v, R p { p with pc := v }) {s : State} (target : Word) (hs : P s) :
    P (jumpTo target s).final :=
  h.tick (h.cpu _ (hpc _ _) hs)

theorem returnFromCall (h : ReadClosed R P) (hsp : ∀ p v, R p { p with sp := v }) (hpc : ∀ p v, R p { p with pc := v }) {s : State}
    (hs : P s) : P (returnFromCall s).final :=
  Res.andThen_final (h.pop16 hsp hs) fun _ _ _ ht => h.tick (h.cpu _ (hpc _ _) ht)

theorem loadReg (h : ReadClosed R P) {r : Reg8} (hr : ∀ p v, R p (p.set8 r v)) {s : State} (a : Word) (hs : P s) :
    P (loadReg r a s).final :=
  Res.andThen_final (h.memRead a hs) fun _ _ _ ht => h.cpu _ (hr _ _) ht

theorem stepHl (h : ReadClosed R P) (hhl : ∀ p v, R p (p.setHl v)) {r : Res Unit} (d : Word) (hr : P r.final) : P (stepHl d r).final :=
  Res.andThen_final hr fun _ _ _ ht => h.cpu _ (hhl _ _) ht

theorem aluHl (h : ReadClosed R P) (hAF : ∀ p a f, R p { p with a := a, flags := f }) {s : State} (op : AluOp) (hs : P s) :
    P (aluHl op s).final :=
  Res.andThen_final (h.memRead _ hs) fun _ _ _ ht => h.cpu _ (hAF _ _ _) ht

theorem testHl (h : ReadClosed R P) (hf : ∀ p f, R p { p with flags := f }) {s : State} (bn : Fin 8) (hs : P s) :
    P ((readAtHl s).andThen fun v t => .ok () (t.setFlags (bitFlags t.cpu.flags bn v))).final :=
  Res.andThen_final (h.memRead _ hs) fun _ _ _ ht => h.cpu _ (hf _ _) ht

end ReadClosed

namespace Closed

theorem memWrite (h : Closed R P) {s : State} (a : Word) (v : Byte) (hs : P s) : P (memWrite a v s).final := by
  unfold Machine.memWrite
  split
  · exact Res.andThen_final (h.tick hs) fun _ _ _ ht => h.write a v ht
  · exact Res.andThen_final (h.write a v hs) fun _ _ _ ht => h.tick ht

theorem memWrite16 (h : Closed R P) {s : State} (a v : Word) (hs : P s) : P (memWrite16 a v s).final :=
  Res.andThen_final (h.memWrite _ _ hs) fun _ _ _ ht => h.memWrite _ _ ht

theorem push16 (h : Closed R P) (hsp : ∀ p v, R p { p with sp := v }) {s : State} (v : Word) (hs : P s) : P (push16 v s).final := by
  have hbyte {t : State} (b : Byte) (ht : P t) : P (pushByte b t).final := h.memWrite _ _ (h.cpu _ (hsp _ _) ht)
  exact Res.andThen_final (hbyte _ hs) fun _ _ _ ht => hbyte _ ht

theorem callTo (h : Closed R P) (hsp : ∀ p v, R p { p with sp := v }) (hpc : ∀ p v, R p { p with pc := v }) {s : State} (target : Word)
    (hs : P s) : P (callTo target s).final :=
  Res.andThen_final (h.tick hs) fun _ _ _ ht => Res.andThen_final (h.push16 hsp _ ht) fun _ _ _ hu => h.cpu _ (hpc _ _) hu

theorem modifyHl (h : Closed R P) {op : ByteOp} (hf : ∀ (p : Cpu) v, R p { p with flags := (op p.flags v).2 }) {s : State} (hs : P s) :
    P (modifyHl op s).final :=
  Res.andThen_final (h.memRead _ hs) fun _ _ _ ht => h.memWrite _ _ (h.cpu _ (hf _ _) ht)

end Closed

theorem onCond_keeps (cc : Cond) {op : State → Res Unit} {s : State} (hop : P (op s).final) (hs : P s) : P (onCond cc op s).final := by
  unfold Machine.onCond
  split
  · exact hop
  · exact hs

/-! ### Which CPU writes an instruction makes -/

theorem Cpu.set8_flags (p : Cpu) (r : Reg8) (v : Byte) : (p.set8 r v).flags = p.flags := by cases r <;> rfl

/-- What the meaning of `i` leaves alone in the CPU at each of its writes (R25 to R30). -/
structure CpuMove (i : Instr) (p q : Cpu) : Prop where
  ime : i ≠ .ei → i ≠ .di → i ≠ .reti → q.ime = p.ime
  halted : q.halted = p.halted
  pc : movesPc i = false → q.pc = p.pc
  sp : movesSp i = false → q.sp = p.sp
  flags : keepsFlags i = true → q.flags = p.flags

namespace CpuMove

variable {i : Instr}

theorem setSp (h : movesSp i = true) (p : Cpu) (v : Word) : CpuMove i p { p with sp := v } :=
  ⟨fun _ _ _ => rfl, rfl, fun _ => rfl, fun h' => by simp [h] at h', fun _ => rfl⟩

theorem setPc (h : movesPc i = true) (p : Cpu) (v : Word) : CpuMove i p { p with pc := v } :=
  ⟨fun _ _ _ => rfl, rfl, fun h' => by simp [h] at h', fun _ => rfl, fun _ => rfl⟩

theorem setIme (h : i = .ei ∨ i = .di ∨ i = .reti) (p : Cpu) (v : Bool) : CpuMove i p { p with ime := v } :=
  ⟨fun h1 h2 h3 => by simp [h1, h2, h3] at h, rfl, fun _ => rfl, fun _ => rfl, fun _ => rfl⟩

theorem set8 (p : Cpu) (r : Reg8) (v : Byte) : CpuMove i p (p.set8 r v) := by
  cases r <;> exact ⟨fun _ _ _ => rfl, rfl, fun _ => rfl, fun _ => rfl, fun _ => rfl⟩

theorem setHl (p : Cpu) (v : Word) : CpuMove i p (p.setHl v) :=
  ⟨fun _ _ _ => rfl, rfl, fun _ => rfl, fun _ => rfl, fun _ => rfl⟩

theorem set16 {rr : Reg16} (h : rr = .sp → movesSp i = true) (p : Cpu) (v : Word) : CpuMove i p (p.set16 rr v) := by
  cases rr with
  | sp => exact setSp (h rfl) p v
  | _ => exact ⟨fun _ _ _ => rfl, rfl, fun _ => rfl, fun _ => rfl, fun _ => rfl⟩

/-- The flags after a write that an instruction which keeps them makes with the old ones. -/
theorem setFlags {f : Flags} {p : Cpu} (h : keepsFlags i = true → f = p.flags) : CpuMove i p { p with flags := f } :=
  ⟨fun _ _ _ => rfl, rfl, fun _ => rfl, fun _ => rfl, h⟩

theorem setAF (h : keepsFlags i = false) (p : Cpu) (a : Byte) (f : Flags) : CpuMove i p { p with a := a, flags := f } :=
  ⟨fun _ _ _ => rfl, rfl, fun _ => rfl, fun _ => rfl, fun h' => by simp [h] at h'⟩

theorem setStk {qq : Reg16Stk} (h : qq = .af → keepsFlags i = false) (p : Cpu) (v : Word) : CpuMove i p (p.setStk qq v) := by
  cases qq with
  | af => exact setAF (h rfl) p _ _
  | _ => exact ⟨fun _ _ _ => rfl, rfl, fun _ => rfl, fun _ => rfl, fun _ => rfl⟩

end CpuMove

/-! ### The byte 0xCB -/

/-- The meaning of the byte 0xCB and the prefixed table agree at every field (R168, R357). -/
theorem exec_prefixCb (sub : Byte) (s : State) : exec (.prefixCb sub) s = exec (decodeCb sub) s := by
  show execPrefixCb sub s = exec (decodeCb sub) s
  unfold execPrefixCb decodeCb
  generalize opX sub = x, opY sub = y, reg8OfIndex (opZ sub) = r
  match x with
  | 0 => rcases y with _ | _ | _ | _ | _ | _ | _ | y <;> cases r <;> rfl
  | 1 | 2 | x + 3 => cases r <;> rfl

theorem decodeCb_ne_prefixCb (sub sub' : Byte) : decodeCb sub ≠ .prefixCb sub' := by
  unfold decodeCb
  dsimp only
  split <;> exact nofun

/-- A prefixed instruction moves neither `PC` nor `SP`, and writes neither latch. -/
theorem decodeCb_moves : ∀ sub : Byte, movesPc (decodeCb sub) = false ∧ movesSp (decodeCb sub) = false ∧
    decodeCb sub ∉ [Instr.ei, Instr.di, Instr.reti, Instr.halt] := by decide

theorem CpuMove.ofDecodeCb {sub : Byte} {p q : Cpu} (h : CpuMove (decodeCb sub) p q) : CpuMove (.prefixCb sub) p q := by
  obtain ⟨hpc, hsp, hlatch⟩ := decodeCb_moves sub
  simp only [List.mem_cons, not_or] at hlatch
  obtain ⟨hei, hdi, hreti, _⟩ := hlatch
  exact ⟨fun _ _ _ => h.ime hei hdi hreti, h.halted, fun _ => h.pc hpc, fun _ => h.sp hsp, nofun⟩

/-! ### Every instruction but `HALT` -/

/-- An operation that ends a meaning, in the words of `exec_keeps`. -/
theorem finish_keeps {r : Res Unit} (h : P r.final) : ∃ t, finish r = .next t ∧ P t := ⟨_, finish_eq r, h⟩

theorem exec_keeps_of_ne_prefixCb {i : Instr} (h : Closed (CpuMove i) P) (hi : i ≠ .halt) (hp : ∀ sub, i ≠ .prefixCb sub) {s : State}
    (hs : P s) : ∃ t, exec i s = .next t ∧ P t := by
  cases i with
  | halt => exact absurd rfl hi
  | prefixCb sub => exact absurd rfl (hp sub)
  | nop => exact ⟨_, rfl, hs⟩
  | stop | illegalD3 | illegalDB | illegalDD | illegalE3 | illegalE4 | illegalEB | illegalEC | illegalED | illegalF4 | illegalFC
  | illegalFD => exact ⟨_, rfl, h.raise _ hs⟩
  | ei => exact ⟨_, rfl, h.cpu _ (.setIme (.inl rfl) _ _) hs⟩
  | di => exact ⟨_, rfl, h.cpu _ (.setIme (.inr (.inl rfl)) _ _) hs⟩
  | ldRrNn rr nn => exact ⟨_, rfl, h.cpu _ (.set16 (by rintro rfl; rfl) _ _) hs⟩
  | incRr rr | decRr rr =>
    apply finish_keeps
    exact h.tick (h.cpu _ (.set16 (by rintro rfl; rfl) _ _) hs)
  | ldBcA | ldDeA | ldNnA | ldhCA | ldhNA | ldHlR | ldHlN =>
    apply finish_keeps
    exact h.memWrite _ _ hs
  | ldHliA | ldHldA =>
    apply finish_keeps
    exact h.stepHl .setHl _ (h.memWrite _ _ hs)
  | ldRHl | ldABc | ldADe | ldANn | ldhAC | ldhAN =>
    apply finish_keeps
    exact h.loadReg (fun p => .set8 p _) _ hs
  | ldAHli | ldAHld =>
    apply finish_keeps
    exact h.stepHl .setHl _ (h.loadReg (fun p => .set8 p _) _ hs)
  | ldRR | ldRN => exact ⟨_, rfl, h.cpu _ (.set8 _ _ _) hs⟩
  | incR r | decR r | rlcR r | rrcR r | rlR r | rrR r | slaR r | sraR r | swapR r | srlR r =>
    exact ⟨_, rfl, h.cpu _ (.setFlags fun h' => by cases h') (h.cpu _ (.set8 _ _ _) hs)⟩
  | resBR bn r | setBR bn r => exact ⟨_, rfl, h.cpu _ (.setFlags fun _ => (Cpu.set8_flags _ _ _).symm) (h.cpu _ (.set8 _ _ _) hs)⟩
  | incHl | decHl | rlcHl | rrcHl | rlHl | rrHl | slaHl | sraHl | swapHl | srlHl =>
    apply finish_keeps
    exact h.modifyHl (fun _ _ => .setFlags fun h' => by cases h') hs
  | resBHl bn | setBHl bn =>
    apply finish_keeps
    exact h.modifyHl (fun _ _ => .setFlags fun _ => rfl) hs
  | rlca | rrca | rla | rra | daa | cpl => exact ⟨_, rfl, h.cpu _ (.setAF rfl _ _ _) hs⟩
  | scf | ccf | bitBR bn r => exact ⟨_, rfl, h.cpu _ (.setFlags fun h' => by cases h') hs⟩
  | bitBHl bn =>
    apply finish_keeps
    exact h.testHl (fun _ _ => .setFlags fun h' => by cases h') bn hs
  | addAR r | adcAR r | subR r | sbcAR r | andR r | xorR r | orR r | cpR r => exact ⟨_, rfl, h.cpu _ (.setAF rfl _ _ _) hs⟩
  | addAN n | adcAN n | subN n | sbcAN n | andN n | xorN n | orN n | cpN n => exact ⟨_, rfl, h.cpu _ (.setAF rfl _ _ _) hs⟩
  | addAHl | adcAHl | subHl | sbcAHl | andHl | xorHl | orHl | cpHl =>
    apply finish_keeps
    exact h.aluHl (.setAF rfl) _ hs
  | addHlRr rr | ldHlSpE e =>
    apply finish_keeps
    exact h.tick (h.cpu _ (.setFlags fun h' => by cases h') (h.cpu _ (.setHl _ _) hs))
  | addSpE e =>
    apply finish_keeps
    exact Res.andThen_final (h.tick (h.cpu _ (.setFlags fun h' => by cases h') (h.cpu _ (.setSp rfl _ _) hs))) fun _ _ _ ht => h.tick ht
  | ldNnSp nn =>
    apply finish_keeps
    exact h.memWrite16 _ _ hs
  | ldSpHl =>
    apply finish_keeps
    exact h.tick (h.cpu _ (.setSp rfl _ _) hs)
  | pushQq qq =>
    apply finish_keeps
    exact Res.andThen_final (h.tick hs) fun _ _ _ ht => h.push16 (.setSp rfl) _ ht
  | popQq qq =>
    apply finish_keeps
    exact Res.andThen_final (h.pop16 (.setSp rfl) hs) fun _ _ _ ht => h.cpu _ (.setStk (by rintro rfl; rfl) _ _) ht
  | jpHl => exact ⟨_, rfl, h.cpu _ (.setPc rfl _ _) hs⟩
  | jpNn nn | jrE e =>
    apply finish_keeps
    exact h.jumpTo (.setPc rfl) _ hs
  | jpCcNn cc nn | jrCcE cc e =>
    apply finish_keeps
    exact onCond_keeps cc (h.jumpTo (.setPc rfl) _ hs) hs
  | callNn nn | rstT t =>
    apply finish_keeps
    exact h.callTo (.setSp rfl) (.setPc rfl) _ hs
  | callCcNn cc nn =>
    apply finish_keeps
    exact onCond_keeps cc (h.callTo (.setSp rfl) (.setPc rfl) _ hs) hs
  | ret =>
    apply finish_keeps
    exact h.returnFromCall (.setSp rfl) (.setPc rfl) hs
  | reti =>
    apply finish_keeps
    exact Res.andThen_final (h.returnFromCall (.setSp rfl) (.setPc rfl) hs) fun _ _ _ ht =>
      h.cpu _ (.setIme (.inr (.inr rfl)) _ _) ht
  | retCc cc =>
    apply finish_keeps
    exact Res.andThen_final (h.tick hs) fun _ _ _ ht =>
      onCond_keeps cc (h.returnFromCall (.setSp rfl) (.setPc rfl) ht) ht

theorem Closed.mono {R' : Cpu → Cpu → Prop} (h : Closed R P) (hR : ∀ {p q}, R' p q → R p q) : Closed R' P :=
  ⟨⟨fun p hp => h.cpu p (hR hp), h.raise, h.tick⟩, h.write⟩

/-- Every instruction but `HALT` answers a next state, and keeps what its parts keep. -/
theorem exec_keeps {i : Instr} (h : Closed (CpuMove i) P) (hi : i ≠ .halt) {s : State} (hs : P s) : ∃ t, exec i s = .next t ∧ P t := by
  by_cases hp : ∃ sub, i = .prefixCb sub
  · obtain ⟨sub, rfl⟩ := hp
    have hne : decodeCb sub ≠ .halt := fun h' => by simpa [h'] using (decodeCb_moves sub).2.2
    rw [exec_prefixCb]
    exact exec_keeps_of_ne_prefixCb (h.mono .ofDecodeCb) hne (decodeCb_ne_prefixCb sub) hs
  · exact exec_keeps_of_ne_prefixCb h hi (fun sub h' => hp ⟨sub, h'⟩) hs

/-! ### `HALT` -/

/-- Everything `HALT` can do (R352): nothing, halt, raise its fault, or fetch again. -/
theorem exec_halt_cases (s : State) :
    exec .halt s = .next s ∨ exec .halt s = .next (s.setHalted true) ∨
      exec .halt s = .next { s with fault := some (.haltWithPendingInterrupt (pendingInterrupts s)) } ∨
      (pendingInterrupts s ≠ 0#5 ∧ s.cpu.ime = false ∧ s.cfg.haltPendingIme0 = .refetch) := by
  show execHalt s = _ ∨ execHalt s = _ ∨ execHalt s = _ ∨ _
  by_cases hc : s.cfg.haltPendingIme0 = .refetch
  · by_cases hp : pendingInterrupts s = 0#5
    · exact .inr (.inl (by rw [execHalt, if_pos hp]))
    · cases hi : s.cpu.ime with
      | true => exact .inl (by rw [execHalt, if_neg hp, if_pos hi])
      | false => exact .inr (.inr (.inr ⟨hp, rfl, hc⟩))
  · rcases execHalt_plain hc with h | h | h
    · exact .inl h
    · exact .inr (.inl h)
    · exact .inr (.inr (.inl h))

/-- Every instruction answers a next state, and keeps what its parts, whatever they write to the CPU, and the mark of a `HALT` still to be
run keep. -/
theorem exec_keeps_any (h : Closed (fun _ _ => True) P) (hagain : ∀ {s}, P s → P (s.setHaltAgain true)) (i : Instr) {s : State}
    (hs : P s) : ∃ t, exec i s = .next t ∧ P t := by
  by_cases hi : i = .halt
  · subst hi
    rcases exec_halt_cases s with he | he | he | ⟨hp, hime, hc⟩
    · exact ⟨_, he, hs⟩
    · exact ⟨_, he, h.cpu _ trivial hs⟩
    · exact ⟨_, he, h.raise _ hs⟩
    · rw [show exec .halt s = _ from execHalt_refetch hp hime hc]
      have hr := h.refetchInstr (fun _ _ => trivial) hs
      cases hf : refetchInstr s with
      | raised t => exact ⟨t, rfl, by rwa [hf] at hr⟩
      | ok j t =>
        have ht : P t := by rwa [hf] at hr
        by_cases hj : j = .halt
        · exact ⟨_, if_pos hj, hagain ht⟩
        · dsimp only
          rw [if_neg hj]
          exact exec_keeps (h.mono fun _ => trivial) hj ht
  · exact exec_keeps (h.mono fun _ => trivial) hi hs

/-! ### Every step -/

/-- `P` is kept by everything a step is made of but the mark of a `HALT` still to be run. -/
structure KeptByPlan (P : State → Prop) : Prop extends Closed (fun _ _ => True) P where
  clear : ∀ {s : State} (i : Fin 5), P s → P (clearInterrupt i s)
  buttons : ∀ {s : State} (b : Buttons), P s → P (hostSetButtons b s)
  queue : ∀ {s : State} (q : List (List Buttons)), P s → P { s with hostQueue := q }

/-- `P` is kept by everything a step is made of. -/
structure KeptByStep (P : State → Prop) : Prop extends KeptByPlan P where
  haltAgain : ∀ {s : State} (b : Bool), P s → P (s.setHaltAgain b)

/-- The state that a plan leaves the step in. -/
def StepPlan.state : StepPlan → State
  | .over s => s
  | .run _ s => s

namespace KeptByPlan

theorem hostMoves (h : KeptByPlan P) {s : State} (hs : P s) : P (hostMoves s) := by
  have hmoves : ∀ (moves : List Buttons) {t : State}, P t → P (moves.foldl (fun t b => hostSetButtons b t) t) := by
    intro moves
    induction moves with
    | nil => exact id
    | cons b rest ih => exact fun ht => ih (h.buttons b ht)
  unfold Machine.hostMoves
  split
  · exact hs
  · exact hmoves _ (h.queue _ hs)

theorem takeInterrupt (h : KeptByPlan P) (i : Fin 5) {s : State} (hs : P s) : P (takeInterrupt i s).final :=
  Res.andThen_final (h.tick hs) fun _ _ _ h1 => Res.andThen_final (h.tick h1) fun _ _ _ h2 =>
    Res.andThen_final (h.push16 (fun _ _ => trivial) _ h2) fun _ _ _ h3 =>
      h.tick (h.cpu _ trivial (h.clear i (h.cpu _ trivial h3)))

theorem planFetch (h : KeptByPlan P) {s : State} (hs : P s) : P (planFetch s).state := by
  unfold Machine.planFetch
  split
  · rw [planEnd_eq]
    exact h.tick hs
  · have hf := h.fetchInstr (fun _ _ => trivial) hs
    cases hr : fetchInstr s <;> rwa [hr] at hf

theorem stepPlan (h : KeptByPlan P) {s : State} (hs : P s) : P (stepPlan s).state := by
  unfold Machine.stepPlan
  split
  · exact h.planFetch hs
  · have ht : P (s.setHalted false) := h.cpu _ trivial hs
    dsimp only
    split
    · rw [planEnd_eq]
      exact h.takeInterrupt _ ht
    · exact h.planFetch ht

end KeptByPlan

/-- A property that all parts of a step keep is an invariant. -/
theorem KeptByStep.step (h : KeptByStep P) {s t : State} (hs : P s) (ht : step s = .next t) : P t := by
  have hexec {i : Instr} {u : State} (hu : P u) (he : exec i u = .next t) : P t := by
    obtain ⟨w, hw, hp⟩ := exec_keeps_any h.toClosed (h.haltAgain true) i hu
    cases he.symm.trans hw
    exact hp
  have hplan := h.stepPlan (h.hostMoves hs)
  obtain ⟨_, ⟨_, he⟩ | ⟨_, hp⟩ | ⟨_, i, u, hp, he⟩⟩ := step_cases ht
  · exact hexec (h.haltAgain false hs) he
  · rwa [hp] at hplan
  · rw [hp] at hplan
    exact hexec hplan he

/-! ### What follows at once -/

/-- The property that holds of every state: what is left of `exec_keeps` is that there is a next state. -/
theorem closed_true (R : Cpu → Cpu → Prop) : Closed R fun _ => True :=
  ⟨⟨fun _ _ _ => trivial, fun _ _ => trivial, fun _ => trivial⟩, fun _ _ _ => trivial⟩

theorem exec_next (i : Instr) (s : State) : ∃ t, exec i s = .next t := by
  obtain ⟨t, ht, _⟩ := exec_keeps_any (closed_true _) (fun _ => trivial) i (s := s) trivial
  exact ⟨t, ht⟩

theorem step_next {s : State} (h : s.fault = none) : ∃ t, step s = .next t := by
  cases ha : s.haltAgain with
  | true =>
    rw [step_haltAgain h ha]
    exact exec_next _ _
  | false =>
    rcases hp : stepPlan (hostMoves s) with t | ⟨i, u⟩
    · exact ⟨t, step_over h ha hp⟩
    · rw [step_run h ha hp]
      exact exec_next i u

/-- Settles O7: no meaning answers anything but a next state (`exec_next`), so a fault is answered by a faulted machine alone. -/
theorem stepOutcomes : Obligations.StepOutcomes := by
  refine ⟨fun s f => ⟨fun h => ?_, step_faulted⟩, fun s => step_next, exec_next⟩
  cases hf : s.fault with
  | none =>
    obtain ⟨t, ht⟩ := step_next hf
    cases ht.symm.trans h
  | some g =>
    cases (step_faulted hf).symm.trans h
    rfl

/-- What no memory access changes is kept by an instruction, where its CPU writes keep it. -/
theorem closed_cpu {α : Type} (f : Cpu → α) (x : α) (hR : ∀ {p q}, R p q → f q = f p) : Closed R fun t => f t.cpu = x where
  cpu := fun _ hp hs => (hR hp).trans hs
  raise := fun _ hs => hs
  tick := fun {s} hs => (congrArg f (tick_clockKept s).cpu).trans hs
  write := fun {s} a v hs => (congrArg f (busWrite_fixed a v s).cpu).trans hs

/-- A part of the CPU that the writes of an instruction other than `HALT` leave alone is as it was after it, however it ends. -/
theorem exec_cpu_kept {α : Type} {i : Instr} (f : Cpu → α) (hi : i ≠ .halt) (hf : ∀ {p q}, CpuMove i p q → f q = f p) {s t : State}
    (h : exec i s = .next t) : f t.cpu = f s.cpu := by
  obtain ⟨w, hw, hk⟩ := exec_keeps (closed_cpu f (f s.cpu) hf) hi (s := s) rfl
  cases hw.symm.trans h
  exact hk

/-- `HALT` changes no latch but `HALTED` where it fetches nothing again. -/
theorem exec_halt_ime {s t : State} (hc : s.cfg.haltPendingIme0 ≠ .refetch) (h : exec .halt s = .next t) : t.cpu.ime = s.cpu.ime := by
  rcases execHalt_plain hc with he | he | he <;> cases (show exec .halt s = _ from he).symm.trans h <;> rfl

/-- Settles O41: each write of an instruction leaves alone what `CpuMove` says, no memory access changes the CPU, and `HALT` without a
refetch is one of three moves. -/
theorem writersOfLatchesAndPointers : Obligations.WritersOfLatchesAndPointers := by
  intro i s t h
  refine ⟨fun hei hdi hreti hhalt => ?_, fun hi => ?_, fun hpc => ?_, fun hsp => ?_⟩
  · by_cases hi : i = .halt
    · subst hi
      exact exec_halt_ime (hhalt rfl) h
    · exact exec_cpu_kept (·.ime) hi (fun hm => hm.ime hei hdi hreti) h
  · exact exec_cpu_kept (·.halted) hi (fun hm => hm.halted) h
  · exact exec_cpu_kept (·.pc) (by rintro rfl; cases hpc) (fun hm => hm.pc hpc) h
  · exact exec_cpu_kept (·.sp) (by rintro rfl; cases hsp) (fun hm => hm.sp hsp) h

/-- Settles O42: an instruction that keeps the flags writes no others (`CpuMove`), and no memory access changes them. -/
theorem flagsKeptByTheRest : Obligations.FlagsKeptByTheRest := by
  intro i s t hk h
  exact exec_cpu_kept (·.flags) (by rintro rfl; cases hk) (fun hm => hm.flags hk) h

end Sys2Proof.Machine

/-!
The invariants of a step whose parts do not look at the CPU, the interrupt registers, the joypad or the host: what power-up fixes, the
canonical form of memory, the mapper's registers and the VRAM DMA's count.
-/

namespace Sys2Proof.Machine

variable {P : State → Prop}

/-! ### Properties of the devices behind the bus -/

/-- The fields that the invariants of this file look at are as before. -/
structure SameDevices (s u : State) : Prop where
  ppu : u.ppu = s.ppu
  colour : u.colour = s.colour
  cart : u.cart = s.cart
  mem : u.mem = s.mem
  fb : u.fb = s.fb
  lastFrame : u.lastFrame = s.lastFrame
  colorMode : u.colorMode = s.colorMode
  cfg : u.cfg = s.cfg

/-- A button snapshot changes the latch, the requests and the index of the next free value (R462, R463). -/
theorem hostSetButtons_eq (b : Buttons) (s : State) :
    hostSetButtons b s = { s with
      joypad := { s.joypad with buttons := b }, irq := (hostSetButtons b s).irq, freeCount := (hostSetButtons b s).freeCount } := by
  unfold hostSetButtons
  cases s.cfg.joypadIrq <;> dsimp only <;> try split
  all_goals rfl

/-- A timer tick changes the timer and, at most, the requests (R443, R446). -/
theorem timerTick_eq (s : State) : timerTick s = { s with timer := (timerTick s).timer, irq := (timerTick s).irq } := by
  have hdiv : dividerTick s = { s with timer := (dividerTick s).timer } := by
    unfold dividerTick
    dsimp only
    split <;> rfl
  unfold timerTick counterTick timaIncrement
  rw [hdiv]
  dsimp only
  repeat' split
  all_goals rfl

/-- A serial tick changes the countdown and, at most, the requests (R453). -/
theorem serialTick_eq (s : State) : serialTick s = { s with serial := (serialTick s).serial, irq := (serialTick s).irq } := by
  unfold serialTick
  split
  · rfl
  · dsimp only
    split <;> rfl

/-- A property of those devices alone that the clock and a bus write keep is kept by every step. -/
theorem KeptByStep.of_devices (hcongr : ∀ {s u : State}, SameDevices s u → P s → P u) (htick : ∀ {s : State}, P s → P (tick s).final)
    (hwrite : ∀ (a : Word) (v : Byte) {s : State}, P s → P (busWrite a v s).final) : KeptByStep P where
  cpu := fun {s} _ _ hs => hcongr (s := s) ⟨rfl, rfl, rfl, rfl, rfl, rfl, rfl, rfl⟩ hs
  raise := fun {s} _ hs => hcongr (s := s) ⟨rfl, rfl, rfl, rfl, rfl, rfl, rfl, rfl⟩ hs
  tick := htick
  write := fun a v hs => hwrite a v hs
  haltAgain := fun {s} _ hs => hcongr (s := s) ⟨rfl, rfl, rfl, rfl, rfl, rfl, rfl, rfl⟩ hs
  clear := fun {s} _ hs => hcongr (s := s) ⟨rfl, rfl, rfl, rfl, rfl, rfl, rfl, rfl⟩ hs
  buttons := fun {s} b hs => by
    rw [hostSetButtons_eq]
    exact hcongr (s := s) ⟨rfl, rfl, rfl, rfl, rfl, rfl, rfl, rfl⟩ hs
  queue := fun {s} _ hs => hcongr (s := s) ⟨rfl, rfl, rfl, rfl, rfl, rfl, rfl, rfl⟩ hs

/-! ### What power-up fixes -/

/-- What the header, the mode and the parameters fix is in `t` as in `s`, and so is the ROM. -/
def PowerUpKept (s t : State) : Prop :=
  t.colorMode = s.colorMode ∧ t.cfg = s.cfg ∧ t.mem.rom = s.mem.rom ∧ t.cart.kind = s.cart.kind ∧ t.cart.romSize = s.cart.romSize ∧
    t.cart.romBanks = s.cart.romBanks ∧ t.cart.ramSize = s.cart.ramSize

/-- What no access changes, a step does not change. -/
theorem PowerUpKept.next {s t u : State} (h : PowerUpKept s t) (k : FixedKept t u) : PowerUpKept s u := by
  obtain ⟨hmode, hcfg, hrom, hkind, hsize, hbanks, hram⟩ := h
  exact ⟨k.colorMode.trans hmode, k.cfg.trans hcfg, k.rom.trans hrom, k.kind.trans hkind, k.romSize.trans hsize,
    k.romBanks.trans hbanks, k.ramSize.trans hram⟩

theorem powerUpKept_keptByStep (s : State) : KeptByStep (PowerUpKept s) := by
  refine .of_devices (fun {t u} he ht => ?_) (fun ht => ht.next (tick_fixed _)) (fun a v {_} ht => ht.next (busWrite_fixed a v _))
  simpa only [PowerUpKept, he.colorMode, he.cfg, he.mem, he.cart] using ht

/-- Settles O43: no access to memory changes what power-up fixes (`FixedKept`), and nothing else of a step looks at it. -/
theorem fixedAtPowerUp : Obligations.FixedAtPowerUp := by
  intro s t h
  exact (powerUpKept_keptByStep s).step ⟨rfl, rfl, rfl, rfl, rfl, rfl, rfl⟩ h

/-! ### The canonical form of memory -/

theorem memoryCanonical_keptByStep : KeptByStep fun s => memoryCanonical s = true :=
  .of_devices (fun he => memoryCanonical_congr he.mem he.fb he.lastFrame) tick_canonical busWrite_canonical

/-- Settles O44: every memory operation keeps the form (`tick_canonical`, `busWrite_canonical`), so every step does. -/
theorem canonicalMemoryKept : Obligations.CanonicalMemoryKept :=
  fun _ _ hs h => memoryCanonical_keptByStep.step hs h

/-! ### The mapper's registers -/

/-- A written ROM bank is never 0 (R140, R142). -/
theorem foldBank_ne_zero (v : BitVec 7) : foldBank v ≠ 0#7 := by
  unfold foldBank
  split
  · decide
  · assumption

/-- Five bits, folded, still have no bit above them (R140). -/
theorem foldBank_low5_lt : ∀ v : Byte, (foldBank ((v.extractLsb' 0 5).setWidth 7)).toNat < 32 := by decide

theorem mapperInRange_iff (c : Cart) :
    mapperInRange c = true ↔ c.romBankReg ≠ 0#7 ∧ (c.kind = .typeA → c.romBankReg.toNat < 32 ∧ c.ramBankReg.toNat < 4) := by
  simp only [mapperInRange, Bool.and_eq_true, Bool.or_eq_true, bne_iff_ne, decide_eq_true_eq]
  rw [imp_iff_not_or]

theorem mapperRegisterWrite_inRange {c : Cart} (n : Nat) (v : Byte) (h : mapperInRange c = true) :
    mapperInRange (mapperRegisterWrite c n v) = true := by
  have hram2 : ((v.extractLsb' 0 2).setWidth 4).toNat < 4 := by
    rw [setWidth_low_bits, BitVec.toNat_ofNat]
    omega
  rw [mapperInRange_iff] at h ⊢
  obtain ⟨hrom, hA⟩ := h
  unfold mapperRegisterWrite
  split
  next => exact ⟨hrom, hA⟩
  next hk =>
    obtain ⟨hrom32, hram4⟩ := hA hk
    split
    · exact ⟨hrom, hA⟩
    · split
      · exact ⟨foldBank_ne_zero _, fun _ => ⟨foldBank_low5_lt v, hram4⟩⟩
      · split
        · exact ⟨hrom, fun _ => ⟨hrom32, hram2⟩⟩
        · exact ⟨hrom, hA⟩
  next hk =>
    have noA {p : Prop} : c.kind = .typeA → p := fun hA => by simp [hk] at hA
    split
    · exact ⟨hrom, noA⟩
    · split
      · exact ⟨foldBank_ne_zero _, noA⟩
      · split <;> exact ⟨hrom, noA⟩

/-- A write of `LCDC` changes the registers of the PPU and, at most, the requests (R481, R487). -/
theorem writeLcdc_eq (v : Byte) (s : State) :
    writeLcdc v s = { s with ppu := (writeLcdc v s).ppu, irq := (writeLcdc v s).irq } := by
  unfold writeLcdc
  dsimp only
  split
  · rfl
  · split
    · rw [enterMode_oamScan]
    · rfl

theorem writeLcdc_cart (v : Byte) (s : State) : (writeLcdc v s).cart = s.cart := by rw [writeLcdc_eq]

theorem writeLcdc_colour (v : Byte) (s : State) : (writeLcdc v s).colour = s.colour := by rw [writeLcdc_eq]

/-! ### Bus writes that run a DMA -/

/-- What the ticks, the stores to `OAM` and the fault of the OAM DMA keep, the OAM DMA keeps (R110). -/
theorem oamDmaBytes_keeps (htick : ∀ {s}, P s → P (tick s).final) (hstore : ∀ {s} i b, i < 160 → P s → P (setOam i b s))
    (hraise : ∀ {s} f, P s → P { s with fault := some f }) (base : Word) (k i : Nat) (hk : i + k ≤ 160) {s : State} (hs : P s) :
    P (oamDmaBytes base k i s).final := by
  induction k generalizing i s with
  | zero => exact hs
  | succ k ih =>
    simp only [oamDmaBytes]
    refine Res.andThen_final (repeatRes_final (fun _ => htick) _ s hs) fun _ t _ ht => ?_
    split
    · exact ih (i + 1) (by omega) (hstore i _ (by omega) ht)
    · exact hraise _ ht

/-- What every block, the load of the addresses and the end of a transfer keep, a write of `HDMA5` keeps (R541). -/
theorem writeHdma5_keeps (v : Byte) {s : State} (hstop : ∀ {t}, P t → P (hdmaStop t)) (hload : P s → P (hdmaLoad v s))
    (hblock : ∀ {t}, P t → P (copyBlock t).final)
    (harm : ∀ {t}, P t → P { t with colour := { t.colour with hdmaActive := true } }) (hs : P s) : P (writeHdma5 v s).final := by
  unfold writeHdma5
  split
  · exact hstop hs
  · dsimp only
    split
    · exact harm (hload hs)
    · exact Res.andThen_final (repeatRes_final (fun _ => hblock) _ _ (hload hs)) fun _ _ _ ht => hstop ht

/-- A bus write changes no register of the mapper but the one a write below 0x8000 names. -/
theorem busWrite_mapperInRange (a : Word) (v : Byte) {s : State} (h : mapperInRange s.cart = true) :
    mapperInRange (busWrite a v s).final.cart = true := by
  unfold busWrite
  cases busOwner s.colorMode a with
  | rom n => exact mapperRegisterWrite_inRange n v h
  | cartRam off =>
    dsimp only
    split <;> exact h
  | io r =>
    cases r with
    | lcdc =>
      show mapperInRange (writeLcdc v s).cart = true
      rw [writeLcdc_cart]
      exact h
    | dma =>
      exact oamDmaBytes_keeps (P := fun t => mapperInRange t.cart = true) (fun {t} ht => by rwa [(tick_clockKept t).cart])
        (fun _ _ _ ht => ht) (fun _ ht => ht) _ 160 0 (by omega) h
    | hdma5 =>
      exact writeHdma5_keeps (P := fun t => mapperInRange t.cart = true) v (fun ht => ht) (fun ht => ht)
        (fun {t} ht => by rwa [(copyBlock_clockKept t).cart]) (fun ht => ht) h
    | _ => exact h
  | _ => exact h

theorem mapperInRange_keptByStep : KeptByStep fun s => mapperInRange s.cart = true :=
  .of_devices (fun he => by rw [he.cart]; exact id) (fun {s} h => by rwa [(tick_clockKept s).cart]) busWrite_mapperInRange

/-! ### The count of the VRAM DMA -/

/-- Copying bytes changes video memory and, at most, the fault record (R542). -/
theorem copyBytes_eq (k i : Nat) (s : State) :
    (copyBytes k i s).final = { s with
      mem := { s.mem with vram := (copyBytes k i s).final.mem.vram }, fault := (copyBytes k i s).final.fault } := by
  induction k generalizing i s with
  | zero => rfl
  | succ k ih =>
    simp only [copyBytes]
    split
    · exact (ih (i + 1) _).trans rfl
    · rfl

theorem copyBytes_colour (k i : Nat) (s : State) : (copyBytes k i s).final.colour = s.colour := by rw [copyBytes_eq]

/-- A block that ends has moved the addresses and the count; one that raises a fault has not (R542). -/
theorem copyBlock_colour (s : State) :
    (∃ t, copyBlock s = .ok () t ∧ t.colour = (blockDone s).colour) ∨ ∃ t, copyBlock s = .raised t ∧ t.colour = s.colour := by
  have hc := copyBytes_colour 16 0 s
  unfold copyBlock
  cases hr : copyBytes 16 0 s with
  | ok _ t =>
    rw [hr] at hc
    exact .inl ⟨_, rfl, by simp only [blockDone, show t.colour = s.colour from hc]⟩
  | raised t =>
    rw [hr] at hc
    exact .inr ⟨t, rfl, hc⟩

/-- A block changes video memory, the addresses and the count and, at most, the fault record (R542). -/
theorem copyBlock_eq (s : State) :
    (copyBlock s).final = { s with
      mem := { s.mem with vram := (copyBlock s).final.mem.vram }, colour := (copyBlock s).final.colour,
      fault := (copyBlock s).final.fault } := by
  have hb := copyBytes_eq 16 0 s
  unfold copyBlock
  cases hr : copyBytes 16 0 s with
  | ok _ t =>
    rw [hr, Res.final_ok] at hb
    rw [Res.ok_andThen, Res.final_ok, hb]
    rfl
  | raised t =>
    rw [hr, Res.final_raised] at hb
    rw [Res.raised_andThen, Res.final_raised, hb]

/-- The h-blank hook changes no more than a block does (R543). -/
theorem hBlankDma_eq (s : State) :
    (hBlankDma s).final = { s with
      mem := { s.mem with vram := (hBlankDma s).final.mem.vram }, colour := (hBlankDma s).final.colour,
      fault := (hBlankDma s).final.fault } := by
  have hb := copyBlock_eq s
  unfold hBlankDma
  split
  · cases hr : copyBlock s with
    | ok _ t =>
      rw [hr, Res.final_ok] at hb
      rw [Res.ok_andThen, Res.final_ok, hb]
      split <;> rfl
    | raised t =>
      rw [hr, Res.final_raised] at hb
      rw [Res.raised_andThen, Res.final_raised, hb]
  · rfl

theorem hdmaInRange_iff (c : Colour) : hdmaInRange c = true ↔ c.hdmaLeft ≤ 128 ∧ (c.hdmaActive = true → c.hdmaLeft ≠ 0) := by
  simp only [hdmaInRange, Bool.and_eq_true, Bool.or_eq_true, Bool.not_eq_true', decide_eq_true_eq]
  cases c.hdmaActive <;> simp

/-- At h-blank entry the transfer ends with its last block (R543). -/
theorem hBlankDma_inRange {s : State} (h : hdmaInRange s.colour = true) : hdmaInRange (hBlankDma s).final.colour = true := by
  unfold hBlankDma
  split
  · obtain ⟨t, hb, hc⟩ | ⟨t, hb, hc⟩ := copyBlock_colour s
    · rw [hb, Res.ok_andThen, Res.final_ok]
      rw [hdmaInRange_iff] at h ⊢
      have hle : t.colour.hdmaLeft ≤ 128 := by
        rw [hc]
        exact Nat.le_trans (Nat.sub_le _ _) h.1
      split
      · exact ⟨hle, nofun⟩
      · exact ⟨hle, fun _ => by assumption⟩
    · rw [hb]
      show hdmaInRange t.colour = true
      rwa [hc]
  · exact h

/-- Everything a dot can do: the devices move, and at h-blank entry the VRAM DMA then has its turn (R490, R543). -/
theorem ppuDot_cases (s : State) : ∃ t, DeviceOnly s t ∧ (ppuDot s = .ok () t ∨ ppuDot s = hBlankDma t) := by
  unfold ppuDot
  split
  · have hd := (dotWork_device s).trans (dotAdvance_device _)
    generalize dotAdvance (dotWork s) = t at hd
    unfold dotModes
    split
    · exact ⟨_, hd, .inl rfl⟩
    · exact ⟨_, hd.trans (enterMode_device .oamScan t), .inl rfl⟩
    · exact ⟨_, (hd.trans (startDraw_device t)).trans (enterMode_device .draw _), .inl rfl⟩
    · exact ⟨_, hd.trans (enterMode_device .hBlank t), .inr rfl⟩
    · exact ⟨_, (hd.trans (enterMode_device .vBlank t)).trans (requestInterrupt_device 0 _), .inl rfl⟩
  · exact ⟨s, .refl s, .inl rfl⟩

theorem ppuDot_hdmaInRange {s : State} (h : hdmaInRange s.colour = true) : hdmaInRange (ppuDot s).final.colour = true := by
  obtain ⟨t, hd, hr⟩ := ppuDot_cases s
  have ht : hdmaInRange t.colour = true := by rwa [hd.specials.colour]
  rcases hr with hr | hr <;> rw [hr]
  · exact ht
  · exact hBlankDma_inRange ht

theorem tick_hdmaInRange {s : State} (h : hdmaInRange s.colour = true) : hdmaInRange (tick s).final.colour = true := by
  refine Res.andThen_final (P := fun t => hdmaInRange t.colour = true)
    (repeatRes_final (P := fun t => hdmaInRange t.colour = true) (fun _ => ppuDot_hdmaInRange) _ s h) fun _ t _ ht => ?_
  rwa [Res.final_ok, ((timerTick_device t).trans (serialTick_device _)).specials.colour]

/-- A transfer that copies all its blocks at once is not armed (R541). -/
theorem bulkTransfer_inRange (n : Nat) {s : State} (hleft : s.colour.hdmaLeft ≤ 128) (hoff : s.colour.hdmaActive = false) :
    hdmaInRange (repeatRes copyBlock n s).final.colour = true := by
  have hkept : ∀ t, t.colour.hdmaLeft ≤ 128 ∧ t.colour.hdmaActive = false →
      (copyBlock t).final.colour.hdmaLeft ≤ 128 ∧ (copyBlock t).final.colour.hdmaActive = false := by
    intro t ⟨hl, ho⟩
    obtain ⟨u, hb, hc⟩ | ⟨u, hb, hc⟩ := copyBlock_colour t <;> rw [hb] <;> simp only [Res.final, hc]
    · exact ⟨Nat.le_trans (Nat.sub_le _ _) hl, ho⟩
    · exact ⟨hl, ho⟩
  obtain ⟨hl, ho⟩ := repeatRes_final (P := fun t => t.colour.hdmaLeft ≤ 128 ∧ t.colour.hdmaActive = false) hkept n s ⟨hleft, hoff⟩
  rw [hdmaInRange_iff, ho]
  exact ⟨hl, nofun⟩

/-- Every start of a transfer loads 1 to 128 blocks (R541). -/
theorem hdmaLoad_left (v : Byte) (s : State) : (hdmaLoad v s).colour.hdmaLeft ≠ 0 ∧ (hdmaLoad v s).colour.hdmaLeft ≤ 128 := by
  have hlt := (v.extractLsb' 0 7).isLt
  exact ⟨Nat.succ_ne_zero _, by simp only [hdmaLoad]; omega⟩

theorem hdmaStop_inRange {s : State} (h : hdmaInRange s.colour = true) : hdmaInRange (hdmaStop s).colour = true := by
  rw [hdmaInRange_iff] at h ⊢
  exact ⟨h.1, nofun⟩

theorem writeHdma5_inRange (v : Byte) {s : State} (h : hdmaInRange s.colour = true) :
    hdmaInRange (writeHdma5 v s).final.colour = true := by
  obtain ⟨hne, hle⟩ := hdmaLoad_left v s
  unfold writeHdma5
  split
  next => exact hdmaStop_inRange h
  next hstart =>
    dsimp only
    split
    next =>
      rw [Res.final_ok, hdmaInRange_iff]
      exact ⟨hle, fun _ => hne⟩
    next hv =>
      have hoff : s.colour.hdmaActive = false := Bool.eq_false_of_not_eq_true fun ha => hstart ⟨ha, Bool.eq_false_of_not_eq_true hv⟩
      exact Res.andThen_final (P := fun t => hdmaInRange t.colour = true) (bulkTransfer_inRange _ hle hoff) fun _ _ _ => hdmaStop_inRange

theorem busWrite_hdmaInRange (a : Word) (v : Byte) {s : State} (h : hdmaInRange s.colour = true) :
    hdmaInRange (busWrite a v s).final.colour = true := by
  unfold busWrite
  cases busOwner s.colorMode a with
  | cartRam off =>
    dsimp only
    split <;> exact h
  | io r =>
    cases r with
    | lcdc =>
      show hdmaInRange (writeLcdc v s).colour = true
      rwa [writeLcdc_colour]
    | dma =>
      exact oamDmaBytes_keeps (P := fun t => hdmaInRange t.colour = true) tick_hdmaInRange (fun _ _ _ ht => ht) (fun _ ht => ht) _ 160 0
        (by omega) h
    | hdma5 => exact writeHdma5_inRange v h
    | _ => exact h
  | _ => exact h

theorem hdmaInRange_keptByStep : KeptByStep fun s => hdmaInRange s.colour = true :=
  .of_devices (fun he => by rw [he.colour]; exact id) tick_hdmaInRange busWrite_hdmaInRange

/-- Settles O47: a mapper register takes no value outside its range (`mapperRegisterWrite_inRange`), and the count of blocks falls by one
a block and ends the paced transfer at 0 (`hBlankDma_inRange`). -/
theorem mapperAndDmaStayInRange : Obligations.MapperAndDmaStayInRange :=
  fun _ _ h => ⟨fun hs => mapperInRange_keptByStep.step hs h, fun hs => hdmaInRange_keptByStep.step hs h⟩

end Sys2Proof.Machine

/-!
The position of the PPU (62_ppu.md R486 to R497): where a dot leads, dot by dot, and the mode that belongs to each place.
-/

namespace Sys2Proof.Machine

/-! ### The work of a dot and the place it leads to -/

/-- Fetching a tile row moves nothing of the position. -/
theorem laneFetch_place (x y : Nat) (s : State) :
    (laneFetch x y s).ppu.ly = s.ppu.ly ∧ (laneFetch x y s).ppu.dot = s.ppu.dot ∧ (laneFetch x y s).ppu.mode = s.ppu.mode ∧
      (laneFetch x y s).ppu.drawWait = s.ppu.drawWait := by
  unfold laneFetch refetchRow fetchRow windowSwitch
  repeat' split
  all_goals exact ⟨rfl, rfl, rfl, rfl⟩

/-- The work of a dot moves neither the line nor the dot, and enters no mode (R490). -/
theorem dotWork_place (s : State) :
    (dotWork s).ppu.ly = s.ppu.ly ∧ (dotWork s).ppu.dot = s.ppu.dot ∧ (dotWork s).ppu.mode = s.ppu.mode := by
  unfold dotWork
  split
  · split
    · obtain ⟨hly, hdot, hmode, _⟩ := laneFetch_place s.ppu.lx s.ppu.ly.toNat s
      exact ⟨hly, hdot, hmode⟩
    · exact ⟨rfl, rfl, rfl⟩
  · exact ⟨rfl, rfl, rfl⟩

/-- In draw mode the work of a dot emits a pixel, or after the last one waits (R490, R497). -/
theorem dotWork_draw {s : State} (h : s.ppu.mode = .draw) :
    (dotWork s).ppu.lx = (if s.ppu.lx < 160 then s.ppu.lx + 1 else s.ppu.lx) ∧
      (dotWork s).ppu.drawWait = if s.ppu.lx < 160 then s.ppu.drawWait else s.ppu.drawWait - 1 := by
  unfold dotWork
  rw [if_pos h]
  split
  · obtain ⟨_, _, _, hwait⟩ := laneFetch_place s.ppu.lx s.ppu.ly.toNat s
    exact ⟨rfl, hwait⟩
  · exact ⟨rfl, rfl⟩

theorem lineCompare_ppu (s : State) : (lineCompare s).ppu = s.ppu := by
  unfold lineCompare
  split <;> rfl

/-- The place after a dot, before the mode of it is entered (R490). -/
theorem dotAdvance_ppu (s : State) :
    (dotAdvance s).ppu =
      if s.ppu.dot + 1 = 456 then { s.ppu with dot := 0, ly := if s.ppu.ly = 153#8 then 0x00#8 else s.ppu.ly + 1#8 }
      else { s.ppu with dot := s.ppu.dot + 1 } := by
  unfold dotAdvance endLine
  split
  · split <;> exact (lineCompare_ppu _).trans rfl
  · rfl

theorem enterMode_ppu (m : PpuMode) (s : State) : (enterMode m s).ppu = { s.ppu with mode := m } := by
  unfold enterMode
  cases m <;> dsimp only <;> split <;> rfl

theorem hBlankDma_ppu (s : State) : (hBlankDma s).final.ppu = s.ppu := by rw [hBlankDma_eq]

theorem dotModes_none {s : State} (h : modeDue s = none) : dotModes s = .ok () s := by
  rw [dotModes, h]

theorem dotModes_draw {s : State} (h : modeDue s = some .draw) : dotModes s = .ok () (enterMode .draw (startDraw s)) := by
  rw [dotModes, h]

/-- Entering a mode other than draw changes nothing of the PPU but the mode (R490, R493, R543). -/
theorem dotModes_ppu {s : State} {m : PpuMode} (h : modeDue s = some m) (hm : m ≠ .draw) :
    (dotModes s).final.ppu = { s.ppu with mode := m } := by
  rw [dotModes, h]
  cases m with
  | draw => exact absurd rfl hm
  | hBlank => exact (hBlankDma_ppu _).trans (enterMode_ppu .hBlank s)
  | vBlank => exact enterMode_ppu .vBlank s
  | oamScan => exact enterMode_ppu .oamScan s

/-! ### The mode that belongs to a place -/

/-- The modes of R490 by place: oam-scan, draw with its pixel position and the penalty left, h-blank, v-blank. -/
theorem ppuModeFits_iff (cfg : Config) (p : Ppu) :
    ppuModeFits cfg p = true ↔
      (p.ly.toNat < 144 ∧ p.dot < 80 ∧ p.mode = .oamScan) ∨
      (p.ly.toNat < 144 ∧ 80 ≤ p.dot ∧ p.dot < 240 + cfg.drawPenaltyDots ∧ p.mode = .draw ∧ p.lx = min (p.dot - 80) 160 ∧
        p.drawWait = cfg.drawPenaltyDots - (p.dot - 240)) ∨
      (p.ly.toNat < 144 ∧ 240 + cfg.drawPenaltyDots ≤ p.dot ∧ p.mode = .hBlank) ∨ (144 ≤ p.ly.toNat ∧ p.mode = .vBlank) := by
  unfold ppuModeFits
  split
  next hly =>
    have hly' : ¬ 144 ≤ p.ly.toNat := by omega
    split
    next hdot => simp [hly, hly', hdot]; omega
    next hdot =>
      split
      next hdraw => simp [hly, hly', hdot, hdraw, Nat.not_lt.mp hdot, and_assoc]
      next hdraw => simp [hly, hly', hdot, hdraw, Nat.not_lt.mp hdraw]
  next hly => simp [hly, Nat.not_lt.mp hly]

theorem ppuInPlace_on {s : State} (h : lcdcBit s 7 = true) :
    ppuInPlace s = true ↔ s.ppu.ly.toNat < 154 ∧ s.ppu.dot < 456 ∧ ppuModeFits s.cfg s.ppu = true := by
  simp only [ppuInPlace, h, if_true, Bool.and_eq_true, decide_eq_true_eq, and_assoc]

theorem ppuInPlace_off {s : State} (h : lcdcBit s 7 = false) :
    ppuInPlace s = true ↔ s.ppu.ly = 0x00#8 ∧ s.ppu.dot = 0 ∧ s.ppu.mode = .hBlank := by
  simp only [ppuInPlace, h, Bool.false_eq_true, if_false, Bool.and_eq_true, decide_eq_true_eq, beq_iff_eq, and_assoc]

/-- Being in place depends on the PPU and the parameters only. -/
theorem ppuInPlace_congr {s u : State} (hp : u.ppu = s.ppu) (hc : u.cfg = s.cfg) : ppuInPlace u = ppuInPlace s := by
  unfold ppuInPlace lcdcBit
  rw [hp, hc]

/-! ### A dot keeps the PPU in its place -/

/-- At the start of a line the mode of the line is entered, or v-blank goes on (R490). -/
theorem dotModes_fits_lineStart {s : State} (hdot : s.ppu.dot = 0) (hvBlank : 144 < s.ppu.ly.toNat → s.ppu.mode = .vBlank) :
    ppuModeFits s.cfg (dotModes s).final.ppu = true := by
  by_cases h1 : s.ppu.ly.toNat < 144
  · have hdue : modeDue s = some .oamScan := by simp [modeDue, h1, hdot]
    rw [dotModes_ppu hdue nofun, ppuModeFits_iff]
    exact .inl ⟨h1, by simp [hdot], rfl⟩
  · have h144 : 144 ≤ s.ppu.ly.toNat := Nat.not_lt.mp h1
    by_cases h2 : s.ppu.ly = 144#8
    · have hdue : modeDue s = some .vBlank := by simp [modeDue, h2, hdot]
      rw [dotModes_ppu hdue nofun, ppuModeFits_iff]
      exact .inr (.inr (.inr ⟨h144, rfl⟩))
    · have hdue : modeDue s = none := by simp [modeDue, h1, h2]
      have hlt : 144 < s.ppu.ly.toNat := by
        have hne : s.ppu.ly.toNat ≠ 144 := fun h => h2 (BitVec.eq_of_toNat_eq h)
        omega
      rw [dotModes_none hdue, Res.final_ok, ppuModeFits_iff]
      exact .inr (.inr (.inr ⟨h144, hvBlank hlt⟩))

/-- Within a line of the screen, from oam-scan: the 80th dot starts to draw (R490, R497). -/
theorem dotModes_fits_oamScan {s : State} {d : Nat} (hly : s.ppu.ly.toNat < 144) (hdot : s.ppu.dot = d + 1) (hd : d < 80)
    (hmode : s.ppu.mode = .oamScan) : ppuModeFits s.cfg (dotModes s).final.ppu = true := by
  by_cases h80 : d = 79
  · have hdue : modeDue s = some .draw := by simp [modeDue, hly, hdot, h80]
    rw [dotModes_draw hdue, Res.final_ok, enterMode_ppu, ppuModeFits_iff]
    refine .inr (.inl ⟨hly, ?_, ?_, rfl, ?_, ?_⟩) <;> simp [startDraw, hdot, h80]
    omega
  · have hdue : modeDue s = none := by simp [modeDue, hly, hdot, h80, hmode]
    rw [dotModes_none hdue, Res.final_ok, ppuModeFits_iff]
    exact .inl ⟨hly, by omega, hmode⟩

/-- Within a line of the screen, from draw: h-blank is entered where the last pixel is out and the penalty over (R490, R497). -/
theorem dotModes_fits_draw {s : State} {d : Nat} (hly : s.ppu.ly.toNat < 144) (hdot : s.ppu.dot = d + 1) (hd : 80 ≤ d)
    (hlast : d < 240 + s.cfg.drawPenaltyDots) (hmode : s.ppu.mode = .draw) (hlx : s.ppu.lx = min (d + 1 - 80) 160)
    (hwait : s.ppu.drawWait = s.cfg.drawPenaltyDots - (d + 1 - 240)) : ppuModeFits s.cfg (dotModes s).final.ppu = true := by
  have h80 : d ≠ 79 := by omega
  by_cases hend : s.ppu.lx = 160 ∧ s.ppu.drawWait = 0
  · have hdue : modeDue s = some .hBlank := by simp [modeDue, hly, hdot, h80, hmode, hend]
    rw [dotModes_ppu hdue nofun, ppuModeFits_iff]
    exact .inr (.inr (.inl ⟨hly, by simp only [hdot]; omega, rfl⟩))
  · have hdue : modeDue s = none := by simp [modeDue, hly, hdot, h80, hmode, hend]
    rw [dotModes_none hdue, Res.final_ok, ppuModeFits_iff]
    exact .inr (.inl ⟨hly, by omega, by omega, hmode, by rw [hlx, hdot], by rw [hwait, hdot]⟩)

/-- Within a line, from a blanking mode: it goes on (R490). -/
theorem dotModes_fits_blank {s : State} {d : Nat} (hdot : s.ppu.dot = d + 1)
    (h : (s.ppu.ly.toNat < 144 ∧ 240 + s.cfg.drawPenaltyDots ≤ d ∧ s.ppu.mode = .hBlank) ∨ (144 ≤ s.ppu.ly.toNat ∧ s.ppu.mode = .vBlank)) :
    ppuModeFits s.cfg (dotModes s).final.ppu = true := by
  rcases h with ⟨hly, hd, hmode⟩ | ⟨hly, hmode⟩
  · have h80 : d ≠ 79 := by omega
    have hdue : modeDue s = none := by simp [modeDue, hly, hdot, h80, hmode]
    rw [dotModes_none hdue, Res.final_ok, ppuModeFits_iff]
    exact .inr (.inr (.inl ⟨hly, by omega, hmode⟩))
  · have hdue : modeDue s = none := by simp [modeDue, Nat.not_lt.mpr hly, hdot]
    rw [dotModes_none hdue, Res.final_ok, ppuModeFits_iff]
    exact .inr (.inr (.inr ⟨hly, hmode⟩))

/-- Entering a mode moves neither the line nor the dot, and leaves `LCDC` alone. -/
theorem dotModes_place (s : State) :
    (dotModes s).final.ppu.ly = s.ppu.ly ∧ (dotModes s).final.ppu.dot = s.ppu.dot ∧ (dotModes s).final.ppu.lcdc = s.ppu.lcdc := by
  cases hm : modeDue s with
  | none =>
    rw [dotModes_none hm]
    exact ⟨rfl, rfl, rfl⟩
  | some m =>
    by_cases hd : m = .draw
    · subst hd
      rw [dotModes_draw hm, Res.final_ok, enterMode_ppu]
      exact ⟨rfl, rfl, rfl⟩
    · rw [dotModes_ppu hm hd]
      exact ⟨rfl, rfl, rfl⟩

/-- The place that a dot leads to, line and dot (R490). -/
theorem ppuDot_place {s : State} (hon : lcdcBit s 7 = true) :
    (ppuDot s).final.ppu.ly = (if s.ppu.dot + 1 = 456 then (if s.ppu.ly = 153#8 then 0x00#8 else s.ppu.ly + 1#8) else s.ppu.ly) ∧
      (ppuDot s).final.ppu.dot = if s.ppu.dot + 1 = 456 then 0 else s.ppu.dot + 1 := by
  obtain ⟨hly, hdot, _⟩ := dotWork_place s
  obtain ⟨hly', hdot', _⟩ := dotModes_place (dotAdvance (dotWork s))
  rw [ppuDot, if_pos hon, hly', hdot', dotAdvance_ppu, hly, hdot]
  split
  · exact ⟨rfl, rfl⟩
  · exact ⟨hly, rfl⟩

/-- The line after a line: 153 is the last (R490). -/
theorem nextLine_toNat {ly : Byte} (h : ly.toNat < 154) :
    (if ly = 153#8 then 0x00#8 else ly + 1#8).toNat = (ly.toNat + 1) % 154 := by
  split
  next h' =>
    subst h'
    rfl
  next h' =>
    have hne : ly.toNat ≠ 153 := fun hn => h' (BitVec.eq_of_toNat_eq hn)
    rw [BitVec.toNat_add, show (1#8).toNat = 1 from rfl]
    omega

theorem ppuDot_fits {s : State} (hon : lcdcBit s 7 = true) (hline : s.ppu.ly.toNat < 154) (hfits : ppuModeFits s.cfg s.ppu = true) :
    ppuModeFits s.cfg (ppuDot s).final.ppu = true := by
  obtain ⟨hly, hdot, hmode⟩ := dotWork_place s
  have hcfg : (dotAdvance (dotWork s)).cfg = s.cfg := ((dotWork_device s).trans (dotAdvance_device _)).specials.cfg
  have hp := dotAdvance_ppu (dotWork s)
  rw [ppuDot, if_pos hon, ← hcfg]
  rw [ppuModeFits_iff] at hfits
  by_cases hlast : s.ppu.dot + 1 = 456
  · rw [hdot, if_pos hlast] at hp
    refine dotModes_fits_lineStart (by rw [hp]) fun hlt => ?_
    have hnext : (dotAdvance (dotWork s)).ppu.ly.toNat = (s.ppu.ly.toNat + 1) % 154 := by
      rw [hp, hly]
      exact nextLine_toNat hline
    have hly144 : ¬ s.ppu.ly.toNat < 144 := by omega
    have hmode' : s.ppu.mode = .vBlank := by
      rcases hfits with h | h | h | h
      · exact absurd h.1 hly144
      · exact absurd h.1 hly144
      · exact absurd h.1 hly144
      · exact h.2
    rw [hp]
    exact hmode.trans hmode'
  · rw [hdot, if_neg hlast] at hp
    have hdot' : (dotAdvance (dotWork s)).ppu.dot = s.ppu.dot + 1 := by rw [hp]
    rcases hfits with ⟨h1, h2, h3⟩ | ⟨h1, h2, h3, h4, h5, h6⟩ | ⟨h1, h2, h3⟩ | ⟨h1, h2⟩
    · exact dotModes_fits_oamScan (by rw [hp, hly]; exact h1) hdot' h2 (by rw [hp]; exact hmode.trans h3)
    · obtain ⟨hlx, hwait⟩ := dotWork_draw h4
      refine dotModes_fits_draw (by rw [hp, hly]; exact h1) hdot' h2 (by rw [hcfg]; exact h3) (by rw [hp]; exact hmode.trans h4) ?_ ?_
      · rw [hp]
        show (dotWork s).ppu.lx = _
        rw [hlx]
        split <;> omega
      · rw [hp, hcfg]
        show (dotWork s).ppu.drawWait = _
        rw [hwait]
        split <;> omega
    · exact dotModes_fits_blank hdot' (.inl ⟨by rw [hp, hly]; exact h1, by rw [hcfg]; exact h2, by rw [hp]; exact hmode.trans h3⟩)
    · exact dotModes_fits_blank hdot' (.inr ⟨by rw [hp, hly]; exact h1, by rw [hp]; exact hmode.trans h2⟩)

theorem ppuDot_lcdc (s : State) : lcdcBit (ppuDot s).final 7 = lcdcBit s 7 := by
  simp only [lcdcBit, (ppuDot_clockKept s).lcdc]

/-- A dot keeps the PPU in its place (R490), and a switched-off PPU stays where it is (R487). -/
theorem ppuDot_inPlace {s : State} (h : ppuInPlace s = true) : ppuInPlace (ppuDot s).final = true := by
  cases hon : lcdcBit s 7 with
  | false =>
    rw [ppuDot_off hon]
    exact h
  | true =>
    rw [ppuInPlace_on hon] at h
    obtain ⟨hline, hdot, hfits⟩ := h
    obtain ⟨hly', hdot'⟩ := ppuDot_place hon
    rw [ppuInPlace_on ((ppuDot_lcdc s).trans hon), (ppuDot_clockKept s).cfg]
    refine ⟨?_, ?_, ppuDot_fits hon hline hfits⟩
    · rw [hly']
      have hnext := nextLine_toNat hline
      split <;> omega
    · rw [hdot']
      split <;> omega

/-- Neither the timer nor the serial port moves the PPU. -/
theorem serialTick_ppu (s : State) : (serialTick (timerTick s)).ppu = s.ppu := by
  rw [serialTick_eq, timerTick_eq]

/-- Only the dots of a tick look at the PPU (R440). -/
theorem tick_inPlace {s : State} (h : ppuInPlace s = true) : ppuInPlace (tick s).final = true := by
  refine Res.andThen_final (P := fun t => ppuInPlace t = true)
    (repeatRes_final (P := fun t => ppuInPlace t = true) (fun _ => ppuDot_inPlace) _ s h) fun _ t _ ht => ?_
  have hd := (timerTick_device t).trans (serialTick_device _)
  rw [Res.final_ok, ppuInPlace_congr (serialTick_ppu t) hd.specials.cfg]
  exact ht

/-- A write of `LCDC` that keeps bit 7 stores the byte alone (R481). -/
theorem writeLcdc_same {v : Byte} {s : State} (h : lcdcBit s 7 = v.getLsbD 7) : writeLcdc v s = { s with ppu := { s.ppu with lcdc := v } } := by
  have noFall : ¬ (lcdcBit s 7 = true ∧ v.getLsbD 7 = false) := by
    rintro ⟨h1, h2⟩
    cases h1.symm.trans (h.trans h2)
  have noRise : ¬ (lcdcBit s 7 = false ∧ v.getLsbD 7 = true) := by
    rintro ⟨h1, h2⟩
    cases h1.symm.trans (h.trans h2)
  rw [writeLcdc, if_neg noFall, if_neg noRise]

/-- Both edges of the switch leave the PPU at the start of line 0 (R486, R487). -/
theorem writeLcdc_inPlace (v : Byte) {s : State} (h : ppuInPlace s = true) : ppuInPlace (writeLcdc v s) = true := by
  cases hold : lcdcBit s 7 with
  | true =>
    cases hv : v.getLsbD 7 with
    | false =>
      rw [writeLcdc_off hold hv]
      refine (ppuInPlace_off ?_).mpr ⟨rfl, rfl, rfl⟩
      exact hv
    | true =>
      rw [writeLcdc_same (hold.trans hv.symm)]
      refine (ppuInPlace_on ?_).mpr ((ppuInPlace_on hold).mp h)
      exact hv
  | false =>
    have hstart := (ppuInPlace_off hold).mp h
    cases hv : v.getLsbD 7 with
    | true =>
      obtain ⟨hly, hdot, _⟩ := hstart
      have hly0 : s.ppu.ly.toNat = 0 := by rw [hly]; rfl
      rw [writeLcdc_on hold hv, enterMode_oamScan]
      refine (ppuInPlace_on ?_).mpr ⟨?_, ?_, (ppuModeFits_iff _ _).mpr (.inl ⟨?_, ?_, rfl⟩)⟩
      · exact hv
      all_goals simp only [hly0, hdot]; decide
    | false =>
      rw [writeLcdc_same (hold.trans hv.symm)]
      refine (ppuInPlace_off ?_).mpr hstart
      exact hv

theorem busWrite_inPlace (a : Word) (v : Byte) {s : State} (h : ppuInPlace s = true) : ppuInPlace (busWrite a v s).final = true := by
  unfold busWrite
  cases busOwner s.colorMode a with
  | cartRam off =>
    dsimp only
    split <;> exact h
  | io r =>
    cases r with
    | lcdc => exact writeLcdc_inPlace v h
    | dma =>
      exact oamDmaBytes_keeps (P := fun t => ppuInPlace t = true) tick_inPlace (fun _ _ _ ht => ht) (fun _ ht => ht) _ 160 0 (by omega) h
    | hdma5 =>
      have hblock {t : State} (ht : ppuInPlace t = true) : ppuInPlace (copyBlock t).final = true := by
        rw [copyBlock_eq]
        exact ht
      exact writeHdma5_keeps (P := fun t => ppuInPlace t = true) v (fun ht => ht) (fun ht => ht) hblock (fun ht => ht) h
    | _ => exact h
  | _ => exact h

theorem ppuInPlace_keptByStep : KeptByStep fun s => ppuInPlace s = true :=
  .of_devices (fun he => by rw [ppuInPlace_congr he.ppu he.cfg]; exact id) tick_inPlace busWrite_inPlace

/-- Settles O45: every dot leads to a place whose mode is entered where it is due and goes on where none is (`ppuDot_fits`), and the two
edges of the switch lead to the start of line 0 (`writeLcdc_inPlace`). -/
theorem ppuStaysInPlace : Obligations.PpuStaysInPlace :=
  fun _ _ hs h => ppuInPlace_keptByStep.step hs h

end Sys2Proof.Machine

/-!
The frame (62_ppu.md R490, R491, R525): 154 lines of 456 dots, counted dot by dot.
-/

namespace Sys2Proof.Machine

/-! ### One dot -/

/-- The number of a dot within its frame: 456 dots to a line (R490). -/
def frameDot (s : State) : Nat := 456 * s.ppu.ly.toNat + s.ppu.dot

theorem frameDot_lt {s : State} (hon : lcdcBit s 7 = true) (h : ppuInPlace s = true) : frameDot s < 70224 := by
  obtain ⟨hline, hdot, _⟩ := (ppuInPlace_on hon).mp h
  unfold frameDot
  omega

/-- A dot leads to the next one of the frame, and the last to the first (R490). -/
theorem ppuDot_frameDot {s : State} (hon : lcdcBit s 7 = true) (h : ppuInPlace s = true) :
    frameDot (ppuDot s).final = (frameDot s + 1) % 70224 := by
  obtain ⟨hline, hdot, _⟩ := (ppuInPlace_on hon).mp h
  obtain ⟨hly', hdot'⟩ := ppuDot_place hon
  have hnext := nextLine_toNat hline
  simp only [frameDot, hly', hdot']
  split
  · rw [hnext]
    omega
  · omega

theorem laneFetch_frameCount (x y : Nat) (s : State) : (laneFetch x y s).frameCount = s.frameCount := by
  unfold laneFetch refetchRow fetchRow windowSwitch
  repeat' split
  all_goals rfl

theorem dotWork_frameCount (s : State) : (dotWork s).frameCount = s.frameCount := by
  unfold dotWork
  split
  · split
    · exact laneFetch_frameCount _ _ s
    · rfl
  · rfl

theorem enterMode_frameCount (m : PpuMode) (s : State) : (enterMode m s).frameCount = s.frameCount := by
  unfold enterMode
  cases m <;> dsimp only <;> split <;> rfl

theorem dotModes_frameCount (s : State) : (dotModes s).final.frameCount = s.frameCount := by
  unfold dotModes
  split
  · rfl
  · exact enterMode_frameCount .oamScan s
  · exact enterMode_frameCount .draw (startDraw s)
  · rw [hBlankDma_eq]
    exact enterMode_frameCount .hBlank s
  · exact enterMode_frameCount .vBlank s

/-- A frame is handed over at the end of the last line and nowhere else (R525). -/
theorem dotAdvance_frameCount (s : State) :
    (dotAdvance s).frameCount = if s.ppu.dot + 1 = 456 ∧ s.ppu.ly = 153#8 then s.frameCount + 1 else s.frameCount := by
  have hcompare (t : State) : (lineCompare t).frameCount = t.frameCount := by
    unfold lineCompare
    split <;> rfl
  unfold dotAdvance endLine
  by_cases hdot : s.ppu.dot + 1 = 456
  · by_cases hly : s.ppu.ly = 153#8
    · simp only [hdot, hly, if_true, and_self, hcompare]
      rfl
    · simp only [hdot, hly, if_true, if_false, and_false, hcompare]
  · simp only [hdot, if_false, false_and]

theorem ppuDot_frameCount {s : State} (hon : lcdcBit s 7 = true) (h : ppuInPlace s = true) :
    (ppuDot s).final.frameCount = s.frameCount + (frameDot s + 1) / 70224 := by
  obtain ⟨hline, hdot, _⟩ := (ppuInPlace_on hon).mp h
  obtain ⟨hly', hdot', _⟩ := dotWork_place s
  have hly153 : s.ppu.ly = 153#8 ↔ s.ppu.ly.toNat = 153 := by
    rw [← BitVec.toNat_inj]
    rfl
  rw [ppuDot, if_pos hon, dotModes_frameCount, dotAdvance_frameCount, hly', hdot', dotWork_frameCount, frameDot]
  simp only [hly153]
  split <;> omega

/-- The first dot of line 144 requests the v-blank interrupt (R492). -/
theorem ppuDot_vBlank {s : State} (hon : lcdcBit s 7 = true) (h : ppuInPlace s = true) (hat : frameDot s + 1 = 65664) :
    (ppuDot s).final.irq.iflag.getLsbD 0 = true := by
  obtain ⟨hline, hdot, _⟩ := (ppuInPlace_on hon).mp h
  obtain ⟨hly', hdot', _⟩ := dotWork_place s
  have hp := dotAdvance_ppu (dotWork s)
  unfold frameDot at hat
  have hly143 : s.ppu.ly = 143#8 := BitVec.eq_of_toNat_eq (by show s.ppu.ly.toNat = 143; omega)
  have hdot455 : s.ppu.dot = 455 := by omega
  rw [hdot', hly', hly143, hdot455, if_pos rfl] at hp
  have hdue : modeDue (dotAdvance (dotWork s)) = some .vBlank := by
    unfold modeDue
    rw [hp]
    rfl
  rw [ppuDot, if_pos hon, dotModes, hdue]
  simp [requestInterrupt]

/-! ### A run of dots -/

/-- What `n` dots of a machine that is switched on have done: the devices moved, `n` dots further in the frame, with a frame handed over at
each wrap, and the v-blank interrupt requested if the first dot of line 144 was among them. -/
structure DotsRun (n : Nat) (s t : State) : Prop where
  device : DeviceOnly s t
  inPlace : ppuInPlace t = true
  requests : RequestsKept s t
  dot : frameDot t = (frameDot s + n) % 70224
  frames : t.frameCount = s.frameCount + (frameDot s + n) / 70224
  vBlank : (frameDot s < 65664 ∧ 65664 ≤ frameDot s + n) ∨ 65664 + 70224 ≤ frameDot s + n → t.irq.iflag.getLsbD 0 = true

/-- A request that is kept is still there. -/
theorem RequestsKept.getLsbD {s t : State} (h : RequestsKept s t) {k : Nat} (hs : s.irq.iflag.getLsbD k = true) :
    t.irq.iflag.getLsbD k = true := by
  have hk := congrArg (BitVec.getLsbD · k) h.kept
  simpa only [BitVec.getLsbD_and, hs, Bool.true_and] using hk

theorem repeatDot_run (n : Nat) {s : State} (hq : quiet s = true) (hon : lcdcBit s 7 = true) (h : ppuInPlace s = true) :
    ∃ t, repeatRes ppuDot n s = .ok () t ∧ DotsRun n s t := by
  induction n generalizing s with
  | zero =>
    have hlt := frameDot_lt hon h
    exact ⟨s, rfl, .refl s, h, .refl s, by omega, by omega, fun hv => by omega⟩
  | succ n ih =>
    obtain ⟨m, hm, hd⟩ := ppuDot_quiet hq
    have hfinal : (ppuDot s).final = m := by rw [hm, Res.final_ok]
    have hlt := frameDot_lt hon h
    have hdot := ppuDot_frameDot hon h
    have hframes := ppuDot_frameCount hon h
    have hvBlank := ppuDot_vBlank hon h
    have hreq := ppuDot_requests s
    have hplace := ppuDot_inPlace h
    have hon' := (ppuDot_lcdc s).trans hon
    rw [hfinal] at hdot hframes hvBlank hreq hplace hon'
    obtain ⟨t, ht, hr⟩ := ih (hd.quiet.trans hq) hon' hplace
    have hrdot := hr.dot
    have hrframes := hr.frames
    refine ⟨t, by rw [repeatRes, hm]; exact ht, hd.trans hr.device, hr.inPlace, hreq.trans hr.requests, by omega, by omega, fun hv => ?_⟩
    by_cases hat : frameDot s + 1 = 65664
    · exact hr.requests.getLsbD (hvBlank hat)
    · exact hr.vBlank (by omega)

/-- The place and the parameters give the mode (R490). -/
theorem mode_of_place {cfg : Config} {p q : Ppu} (hp : ppuModeFits cfg p = true) (hq : ppuModeFits cfg q = true) (hly : q.ly = p.ly)
    (hdot : q.dot = p.dot) : q.mode = p.mode := by
  rw [ppuModeFits_iff] at hp hq
  rw [hly, hdot] at hq
  rcases hp with ⟨h1, h2, hp⟩ | ⟨h1, h2, h3, hp, _⟩ | ⟨h1, h2, hp⟩ | ⟨h1, hp⟩ <;>
    rcases hq with ⟨k1, k2, hq⟩ | ⟨k1, k2, k3, hq, _⟩ | ⟨k1, k2, hq⟩ | ⟨k1, hq⟩ <;>
    first | exact hq.trans hp.symm | omega

/-- Settles O54: 70224 dots are one turn of the frame (`repeatDot_run`), so they pass line 144 and the wrap once, and end at the place they
began at, to which one mode belongs. -/
theorem frameGeometry : Obligations.FrameGeometry := by
  intro s hq h hon
  obtain ⟨t, ht, hr⟩ := repeatDot_run 70224 hq hon h
  have hlt := frameDot_lt hon h
  have hon' : lcdcBit t 7 = true := by rw [lcdcBit, hr.device.specials.ppuControl.1]; exact hon
  obtain ⟨hline, hdot, hfits⟩ := (ppuInPlace_on hon).mp h
  obtain ⟨hline', hdot', hfits'⟩ := (ppuInPlace_on hon').mp hr.inPlace
  have hsame : frameDot t = frameDot s := by rw [hr.dot]; omega
  unfold frameDot at hsame
  have hly : t.ppu.ly = s.ppu.ly := BitVec.eq_of_toNat_eq (by omega)
  have hdots : t.ppu.dot = s.ppu.dot := by omega
  rw [hr.device.specials.cfg] at hfits'
  exact ⟨t, ht, hly, hdots, mode_of_place hfits hfits' hly hdots, by rw [hr.frames]; omega, hr.vBlank (by omega), hr.device.cpu,
    hr.device.mem⟩

end Sys2Proof.Machine

/-!
The sizes of the arrays (10_state.md R36, R42 to R44): every store goes to an index below its array's size.
-/

namespace Sys2Proof.Machine

/-! ### The parts of the property -/

theorem cellsBelow_set {α : Type} [DecidableEq α] {bound : Nat} {l : List (Nat × α)} (d : α) {k : Nat} (v : α) (hk : k < bound)
    (h : cellsBelow bound l = true) : cellsBelow bound (cellsSet d l k v) = true := by
  simp only [cellsBelow, List.all_eq_true, decide_eq_true_eq] at h ⊢
  intro e he
  rcases mem_cellsSet d l k v e he with he | rfl
  · exact h e he
  · exact hk

theorem cellsBelow_setByte {bound : Nat} {l : List Host.Cell} {k : Nat} (v : Byte) (hk : k < bound) (h : cellsBelow bound l = true) :
    cellsBelow bound (setByte l k v) = true := cellsBelow_set unlistedByte v hk h

/-- Every array has its entries below its size. -/
structure ArraysBelow (s : State) : Prop where
  wram : cellsBelow 32768 s.mem.wram = true
  vram : cellsBelow 16384 s.mem.vram = true
  oam : cellsBelow 160 s.mem.oam = true
  hram : cellsBelow 127 s.mem.hram = true
  cartRam : cellsBelow s.cart.ramSize s.mem.cartRam = true
  bgCram : cellsBelow 64 s.mem.bgCram = true
  objCram : cellsBelow 64 s.mem.objCram = true
  audio : cellsBelow 48 s.mem.audio = true
  fb : cellsBelow 23040 s.fb = true

theorem arraysInRange_iff (s : State) : arraysInRange s = true ↔ ArraysBelow s := by
  simp only [arraysInRange, Bool.and_eq_true]
  constructor
  · rintro ⟨⟨⟨⟨⟨⟨⟨⟨h1, h2⟩, h3⟩, h4⟩, h5⟩, h6⟩, h7⟩, h8⟩, h9⟩
    exact ⟨h1, h2, h3, h4, h5, h6, h7, h8, h9⟩
  · rintro ⟨h1, h2, h3, h4, h5, h6, h7, h8, h9⟩
    exact ⟨⟨⟨⟨⟨⟨⟨⟨h1, h2⟩, h3⟩, h4⟩, h5⟩, h6⟩, h7⟩, h8⟩, h9⟩

/-- It depends on memory, the size of cartridge RAM and the frame buffer only. -/
theorem ArraysBelow.congr {s u : State} (h : ArraysBelow s) (hm : u.mem = s.mem) (hc : u.cart.ramSize = s.cart.ramSize)
    (hf : u.fb = s.fb) : ArraysBelow u := by
  obtain ⟨h1, h2, h3, h4, h5, h6, h7, h8, h9⟩ := h
  rw [← hm] at h1 h2 h3 h4 h5 h6 h7 h8
  rw [← hc] at h5
  rw [← hf] at h9
  exact ⟨h1, h2, h3, h4, h5, h6, h7, h8, h9⟩

theorem setVram_below {s : State} {bank off : Nat} (v : Byte) (hb : bank < 2) (ho : off < 8192) (h : ArraysBelow s) :
    ArraysBelow (setVram bank off v s) :=
  { h with vram := cellsBelow_setByte v (by omega) h.vram }

theorem setOam_below {s : State} {k : Nat} (v : Byte) (hk : k < 160) (h : ArraysBelow s) : ArraysBelow (setOam k v s) :=
  { h with oam := cellsBelow_setByte v hk h.oam }

/-! ### The clock -/

theorem emitPixel_below {s : State} (hly : s.ppu.ly.toNat < 144) (hlx : s.ppu.lx < 160) (h : ArraysBelow s) :
    ArraysBelow (emitPixel s) := by
  have hd := laneFetch_device s.ppu.lx s.ppu.ly.toNat s
  have hf := (laneFetch_frame s.ppu.lx s.ppu.ly.toNat s).1
  have ht : ArraysBelow (laneFetch s.ppu.lx s.ppu.ly.toNat s) := h.congr hd.mem (by rw [hd.specials.cart]) hf
  exact { ht with fb := cellsBelow_set _ _ (by omega) ht.fb }

/-- In draw mode the PPU is on a line of the screen (R490). -/
theorem line_of_draw {cfg : Config} {p : Ppu} (h : ppuModeFits cfg p = true) (hm : p.mode = .draw) : p.ly.toNat < 144 := by
  rw [ppuModeFits_iff, hm] at h
  rcases h with ⟨_, _, h⟩ | ⟨h, _⟩ | ⟨_, _, h⟩ | ⟨_, h⟩
  · cases h
  · exact h
  · cases h
  · cases h

theorem dotWork_below {s : State} (hfits : ppuModeFits s.cfg s.ppu = true) (h : ArraysBelow s) : ArraysBelow (dotWork s) := by
  unfold dotWork
  split
  next hm =>
    split
    next hlx => exact emitPixel_below (line_of_draw hfits hm) hlx h
    next => exact h.congr rfl rfl rfl
  next => exact h

theorem dotAdvance_fb (s : State) : (dotAdvance s).fb = s.fb := by
  have hcompare (t : State) : (lineCompare t).fb = t.fb := by
    unfold lineCompare
    split <;> rfl
  unfold dotAdvance endLine
  split
  · split <;> exact hcompare _
  · rfl

theorem copyBytes_below (k i : Nat) {s : State} (h : ArraysBelow s) : ArraysBelow (copyBytes k i s).final := by
  induction k generalizing i s with
  | zero => exact h
  | succ k ih =>
    simp only [copyBytes]
    split
    · exact ih (i + 1) (setVram_below _ s.colour.vbk.isLt (Nat.mod_lt _ (by decide)) h)
    · exact h.congr rfl rfl rfl

theorem copyBlock_below {s : State} (h : ArraysBelow s) : ArraysBelow (copyBlock s).final :=
  Res.andThen_final (P := ArraysBelow) (copyBytes_below 16 0 h) fun _ _ _ ht => ht.congr rfl rfl rfl

theorem hBlankDma_below {s : State} (h : ArraysBelow s) : ArraysBelow (hBlankDma s).final := by
  unfold hBlankDma
  split
  · refine Res.andThen_final (P := ArraysBelow) (copyBlock_below h) fun _ t _ ht => ?_
    dsimp only [Res.final]
    split
    · exact ht.congr rfl rfl rfl
    · exact ht
  · exact h

theorem enterMode_below (m : PpuMode) {s : State} (h : ArraysBelow s) : ArraysBelow (enterMode m s) := by
  obtain ⟨hmem, hfb, _⟩ := enterMode_frame m s
  exact h.congr hmem (by rw [(enterMode_device m s).specials.cart]) hfb

theorem dotModes_below {s : State} (h : ArraysBelow s) : ArraysBelow (dotModes s).final := by
  unfold dotModes
  split
  · exact h
  · exact enterMode_below .oamScan h
  · exact enterMode_below .draw (h.congr (u := startDraw s) rfl rfl rfl)
  · exact hBlankDma_below (enterMode_below .hBlank h)
  · exact (enterMode_below .vBlank h).congr rfl rfl rfl

theorem ppuDot_below {s : State} (hplace : ppuInPlace s = true) (h : ArraysBelow s) : ArraysBelow (ppuDot s).final := by
  cases hon : lcdcBit s 7 with
  | false =>
    rw [ppuDot_off hon]
    exact h
  | true =>
    obtain ⟨_, _, hfits⟩ := (ppuInPlace_on hon).mp hplace
    have hd := dotAdvance_device (dotWork s)
    rw [ppuDot, if_pos hon]
    exact dotModes_below ((dotWork_below hfits h).congr hd.mem (by rw [hd.specials.cart]) (dotAdvance_fb _))

/-- The place of the PPU, and the entries of the arrays, which the place keeps below the sizes. -/
def DrawsInRange (s : State) : Prop := ppuInPlace s = true ∧ ArraysBelow s

theorem tick_drawsInRange {s : State} (h : DrawsInRange s) : DrawsInRange (tick s).final := by
  refine Res.andThen_final (P := DrawsInRange)
    (repeatRes_final (P := DrawsInRange) (fun _ ht => ⟨ppuDot_inPlace ht.1, ppuDot_below ht.1 ht.2⟩) _ s h) fun _ t _ ht => ?_
  rw [Res.final_ok, serialTick_eq, timerTick_eq]
  exact ⟨ht.1, ht.2.congr rfl rfl rfl⟩

/-! ### The bus -/

theorem ramAccess_cell_lt {c : Cart} {off k : Nat} (h : ramAccess c off = .cell k) : k < c.ramSize := by
  unfold ramAccess at h
  repeat' split at h
  case isFalse.isFalse.isFalse h0 _ _ =>
    cases h
    exact Nat.mod_lt _ (Nat.pos_of_ne_zero h0)
  all_goals cases h

/-- A register of the audio block has its index in the block (R79). -/
def IoReg.inBlock : IoReg → Bool
  | .audio i => decide (i < 48)
  | _ => true

theorem ioReg_inBlock : ∀ (colour : Bool) (off : Fin 128), (ioReg colour off).all IoReg.inBlock = true := by decide

/-- An owner's offset is inside its window (R71). -/
def Owner.inWindow : Owner → Prop
  | .vram off => off < 8192
  | .wramFixed off => off < 4096
  | .wramBanked off => off < 4096
  | .oam off => off < 160
  | .hram off => off < 127
  | .io r => r.inBlock = true
  | _ => True

theorem busOwner_inWindow (colour : Bool) (a : Word) : (busOwner colour a).inWindow := by
  unfold busOwner
  dsimp only
  repeat' split
  case h_1 hr =>
    have hblock := ioReg_inBlock colour ⟨a.toNat - 0xFF00, by omega⟩
    rw [hr] at hblock
    exact hblock
  all_goals simp only [Owner.inWindow]
  all_goals omega

/-- The WRAM bank is one of eight (R73, R531). -/
theorem wramBank_lt (s : State) : wramBank s < 8 := by
  have hlt := s.colour.svbk.isLt
  unfold wramBank
  split <;> omega

theorem vramBank_lt (s : State) : vramBank s < 2 := by
  have hlt := s.colour.vbk.isLt
  unfold vramBank
  split <;> omega

theorem busWrite_drawsInRange (a : Word) (v : Byte) {s : State} (hs : DrawsInRange s) : DrawsInRange (busWrite a v s).final := by
  refine ⟨busWrite_inPlace a v hs.1, ?_⟩
  have h := hs.2
  have hwindow := busOwner_inWindow s.colorMode a
  unfold busWrite
  cases ho : busOwner s.colorMode a with
  | rom n => exact h.congr rfl (mapperRegisterWrite_fixed n v s).ramSize rfl
  | vram off =>
    rw [ho] at hwindow
    exact setVram_below v (vramBank_lt s) hwindow h
  | cartRam off =>
    dsimp only
    split
    next hr => exact { h with cartRam := cellsBelow_setByte v (ramAccess_cell_lt hr) h.cartRam }
    next => exact h
    next => exact h.congr rfl rfl rfl
  | wramFixed off =>
    rw [ho] at hwindow
    have hk : off < 32768 := Nat.lt_trans hwindow (by decide)
    exact { h with wram := cellsBelow_setByte v hk h.wram }
  | wramBanked off =>
    rw [ho] at hwindow
    have hoff : off < 4096 := hwindow
    have hk : 4096 * wramBank s + off < 32768 := by
      have hbank := wramBank_lt s
      omega
    exact { h with wram := cellsBelow_setByte v hk h.wram }
  | oam off =>
    rw [ho] at hwindow
    exact setOam_below v hwindow h
  | hram off =>
    rw [ho] at hwindow
    exact { h with hram := cellsBelow_setByte v hwindow h.hram }
  | ie => exact h.congr rfl rfl rfl
  | nobody => exact h.congr rfl rfl rfl
  | io r =>
    cases r with
    | lcdc =>
      show ArraysBelow (writeLcdc v s)
      rw [writeLcdc_eq]
      exact h.congr rfl rfl rfl
    | dma =>
      have hdma : DrawsInRange { s with ppu := { s.ppu with dma := v } } := ⟨hs.1, h.congr rfl rfl rfl⟩
      exact (oamDmaBytes_keeps (P := DrawsInRange) tick_drawsInRange (fun _ b hi ht => ⟨ht.1, setOam_below b hi ht.2⟩)
        (fun _ ht => ⟨ht.1, ht.2.congr rfl rfl rfl⟩) _ 160 0 (by omega) hdma).2
    | hdma5 =>
      exact writeHdma5_keeps (P := ArraysBelow) v (fun ht => ht.congr rfl rfl rfl) (fun ht => ht.congr rfl rfl rfl) copyBlock_below
        (fun ht => ht.congr rfl rfl rfl) h
    | audio i =>
      rw [ho] at hwindow
      exact { h with audio := cellsBelow_setByte v (of_decide_eq_true hwindow) h.audio }
    | bcpd => exact { h with bgCram := cellsBelow_setByte v s.colour.bcpsIndex.isLt h.bgCram }
    | ocpd => exact { h with objCram := cellsBelow_setByte v s.colour.ocpsIndex.isLt h.objCram }
    | _ => exact h.congr rfl rfl rfl

theorem drawsInRange_keptByStep : KeptByStep DrawsInRange :=
  .of_devices (fun he hs => ⟨(ppuInPlace_congr he.ppu he.cfg).trans hs.1, hs.2.congr he.mem (by rw [he.cart]) he.fb⟩) tick_drawsInRange
    busWrite_drawsInRange

/-- Settles O46: the bus stores inside the windows it dispatches to (`busOwner_inWindow`), and a pixel is drawn on the screen, since the
PPU is in its place (`line_of_draw`). -/
theorem arraysStayInRange : Obligations.ArraysStayInRange := by
  intro s t hplace hs h
  exact (arraysInRange_iff t).mpr (drawsInRange_keptByStep.step ⟨hplace, (arraysInRange_iff s).mp hs⟩ h).2

end Sys2Proof.Machine

/-!
The step (60_exceptions.md R400 to R408) and the system instructions (46_system.md): the fetch of an instruction, `HALT` and its refetch,
the dispatch of an interrupt.
-/

namespace Sys2Proof.Machine

/-! ### `NOP`, `DI`, `EI`, `STOP` and the illegal opcodes -/

/-- Settles O38: the three meanings are one write of the latch or none. -/
theorem nopDiEi : Obligations.NopDiEi := fun _ => ⟨rfl, rfl, rfl⟩

/-- An illegal opcode raises its fault and does nothing else (R356). -/
theorem exec_illegal {i : Instr} {op : Byte} (h : illegalByte i = some op) (s : State) :
    exec i s = .next { s with fault := some (.illegalOpcode op (s.cpu.pc - 1#16)) } := by
  unfold illegalByte at h
  split at h <;> cases h <;> rfl

/-- Settles O39: each of the twelve raises its fault at once, and a faulted machine has no step (`step_faulted`). -/
theorem stopAndIllegalOpcodes : Obligations.StopAndIllegalOpcodes :=
  fun s => ⟨⟨_, rfl, rfl, step_faulted rfl⟩, fun _ _ h => ⟨_, exec_illegal h s, rfl, step_faulted rfl⟩⟩

/-! ### `HALT` -/

/-- What `HALT` does with nothing pending. -/
theorem exec_halt_idle {s : State} (hp : pendingInterrupts s = 0#5) : exec .halt s = .next (s.setHalted true) := by
  show execHalt s = _
  rw [execHalt, if_pos hp]

theorem exec_halt_ime_set {s : State} (hp : pendingInterrupts s ≠ 0#5) (hi : s.cpu.ime = true) : exec .halt s = .next s := by
  show execHalt s = _
  rw [execHalt, if_neg hp, if_pos hi]

theorem exec_halt_nop {s : State} (hp : pendingInterrupts s ≠ 0#5) (hi : s.cpu.ime = false) (hc : s.cfg.haltPendingIme0 = .nop) :
    exec .halt s = .next s := by
  show execHalt s = _
  rw [execHalt, if_neg hp, if_neg (by simp [hi]), hc]

theorem exec_halt_fault {s : State} (hp : pendingInterrupts s ≠ 0#5) (hi : s.cpu.ime = false)
    (hc : s.cfg.haltPendingIme0 = .fault) :
    exec .halt s = .next { s with fault := some (.haltWithPendingInterrupt (pendingInterrupts s)) } := by
  show execHalt s = _
  rw [execHalt, if_neg hp, if_neg (by simp [hi]), hc]
  rfl

/-- Settles O40: one lemma for each case of R352, and under `refetch` the byte and the operands read decide (`execHalt_refetch`). -/
theorem halt : Obligations.Halt := by
  refine ⟨fun s => ⟨exec_halt_idle, exec_halt_ime_set, exec_halt_nop, exec_halt_fault, fun hp hi hc => ?_⟩, fun s => step_haltAgain⟩
  have hexec : exec .halt s = _ := execHalt_refetch hp hi hc
  refine ⟨fun op u t i hread hfetch => ?_, fun u hread => ?_, fun op u t hread hfetch => ?_⟩
  · have hr : refetchInstr s = .ok i t := by rw [refetchInstr, hread, Res.ok_andThen, hfetch]
    rw [hexec, hr]
    rfl
  · have hr : refetchInstr s = .raised u := by rw [refetchInstr, hread, Res.raised_andThen]
    rw [hexec, hr]
  · have hr : refetchInstr s = .raised t := by rw [refetchInstr, hread, Res.ok_andThen, hfetch]
    rw [hexec, hr]

/-! ### A `HALT` left to the next step -/

/-- The state in which a refetch can read `HALT` again (R352, log 7). -/
structure HaltWaits (s : State) : Prop where
  refetch : s.cfg.haltPendingIme0 = .refetch
  ime : s.cpu.ime = false
  halted : s.cpu.halted = false
  pending : pendingInterrupts s ≠ 0#5

theorem haltInPlace_iff (s : State) : haltInPlace s = true ↔ (s.haltAgain = true → HaltWaits s) := by
  have hwaits : HaltWaits s ↔ ((s.cfg.haltPendingIme0 == .refetch && !s.cpu.ime && !s.cpu.halted && pendingInterrupts s != 0#5) = true) := by
    simp only [Bool.and_eq_true, beq_iff_eq, Bool.not_eq_true', bne_iff_ne]
    exact ⟨fun h => ⟨⟨⟨h.refetch, h.ime⟩, h.halted⟩, h.pending⟩, fun h => ⟨h.1.1.1, h.1.1.2, h.1.2, h.2⟩⟩
  rw [hwaits]
  unfold haltInPlace
  cases s.haltAgain <;> simp

/-- Reading and fetching keep it: they clear no request and write `PC` alone. -/
theorem haltWaits_readClosed : ReadClosed (fun p q => q.ime = p.ime ∧ q.halted = p.halted) HaltWaits where
  cpu := fun _ hp hs => ⟨hs.refetch, hp.1.trans hs.ime, hp.2.trans hs.halted, hs.pending⟩
  raise := fun _ hs => ⟨hs.refetch, hs.ime, hs.halted, hs.pending⟩
  tick := fun {s} hs => by
    have hk := tick_clockKept s
    exact ⟨by rw [hk.cfg]; exact hs.refetch, by rw [hk.cpu]; exact hs.ime, by rw [hk.cpu]; exact hs.halted,
      (tick_requests s).pending hk.ie hs.pending⟩

/-- No instruction but `HALT` leaves a `HALT` to the next step. -/
theorem haltAgain_closed (R : Cpu → Cpu → Prop) : Closed R fun s => s.haltAgain = false where
  cpu := fun _ _ hs => hs
  raise := fun _ hs => hs
  tick := fun {s} hs => (tick_clockKept s).haltAgain.trans hs
  write := fun {s} a v hs => (busWrite_fixed a v s).haltAgain.trans hs

theorem haltAgain_keptByPlan : KeptByPlan fun s => s.haltAgain = false where
  toClosed := haltAgain_closed _
  clear := fun _ hs => hs
  buttons := fun {s} b hs => by
    rw [hostSetButtons_eq]
    exact hs
  queue := fun _ hs => hs

/-- An instruction leaves a `HALT` to the next step inside a refetch alone. -/
theorem exec_haltInPlace {i : Instr} {s t : State} (hagain : s.haltAgain = false) (hhalted : i = .halt → s.cpu.halted = false)
    (h : exec i s = .next t) : haltInPlace t = true := by
  have plain {j : Instr} {u : State} (hj : j ≠ .halt) (hu : u.haltAgain = false) (he : exec j u = .next t) : haltInPlace t = true := by
    obtain ⟨w, hw, hk⟩ := exec_keeps (haltAgain_closed _) hj hu
    cases he.symm.trans hw
    exact (haltInPlace_iff t).mpr fun ha => by simp [hk] at ha
  have unmarked (ht : t.haltAgain = false) : haltInPlace t = true := (haltInPlace_iff t).mpr fun ha => by simp [ht] at ha
  by_cases hi : i = .halt
  · subst hi
    rcases exec_halt_cases s with he | he | he | ⟨hp, hime, hc⟩
    · cases h.symm.trans he
      exact unmarked hagain
    · cases h.symm.trans he
      exact unmarked hagain
    · cases h.symm.trans he
      exact unmarked hagain
    · have hwaits := haltWaits_readClosed.refetchInstr (fun _ _ => ⟨rfl, rfl⟩) ⟨hc, hime, hhalted rfl, hp⟩
      have hmark := (haltAgain_closed fun _ _ => True).refetchInstr (fun _ _ => trivial) hagain
      rw [show exec .halt s = _ from execHalt_refetch hp hime hc] at h
      cases hr : refetchInstr s with
      | raised u =>
        rw [hr] at h hmark
        cases h
        exact unmarked hmark
      | ok j u =>
        rw [hr] at h hmark hwaits
        dsimp only at h
        split at h
        next =>
          cases h
          exact (haltInPlace_iff _).mpr fun _ => ⟨hwaits.refetch, hwaits.ime, hwaits.halted, hwaits.pending⟩
        next hj => exact plain hj hmark h
  · exact plain hi hagain h

/-- A fetch is made by a machine that is not halted, and leaves it so (R403). -/
theorem planFetch_run {s u : State} {i : Instr} (h : planFetch s = .run i u) : u.cpu.halted = false := by
  have hkept : ReadClosed (fun p q => q.halted = p.halted) fun t => t.cpu.halted = false :=
    ⟨fun _ hp hs => hp.trans hs, fun _ hs => hs, fun {t} hs => by rwa [(tick_clockKept t).cpu]⟩
  unfold planFetch at h
  split at h
  next =>
    rw [planEnd_eq] at h
    cases h
  next hh =>
    have hf := hkept.fetchInstr (fun _ _ => rfl) (Bool.eq_false_of_not_eq_true hh)
    cases hr : fetchInstr s with
    | raised t =>
      rw [hr] at h
      cases h
    | ok j t =>
      rw [hr] at h hf
      cases h
      exact hf

theorem stepPlan_run {s u : State} {i : Instr} (h : stepPlan s = .run i u) : u.cpu.halted = false := by
  unfold stepPlan at h
  split at h
  · exact planFetch_run h
  · dsimp only at h
    split at h
    · rw [planEnd_eq] at h
      cases h
    · exact planFetch_run h

/-- Settles O8: only a refetch marks a `HALT` for the next step (`exec_haltInPlace`), and it begins where `HaltWaits` holds and keeps
it. -/
theorem haltAgainStaysInPlace : Obligations.HaltAgainStaysInPlace := by
  intro s t hs h
  obtain ⟨_, ⟨ha, he⟩ | ⟨ha, hp⟩ | ⟨ha, i, u, hp, he⟩⟩ := step_cases h
  · exact exec_haltInPlace (s := s.setHaltAgain false) rfl (fun _ => ((haltInPlace_iff s).mp hs ha).halted) he
  · have hk := haltAgain_keptByPlan.stepPlan (haltAgain_keptByPlan.hostMoves ha)
    rw [hp] at hk
    exact (haltInPlace_iff t).mpr fun ha' => by cases ha'.symm.trans hk
  · have hk := haltAgain_keptByPlan.stepPlan (haltAgain_keptByPlan.hostMoves ha)
    rw [hp] at hk
    exact exec_haltInPlace hk (fun _ => stepPlan_run hp) he

end Sys2Proof.Machine

/-!
SUPPORT. What the register forms compute, in the words of the statements: the arithmetic and logic of bytes, the rotates and shifts, the
decimal adjust, and that a written register is the only one that changes.
-/

namespace Sys2Proof.Machine

/-! ### Registers -/

theorem Cpu.set8_control (p : Cpu) (r : Reg8) (v : Byte) :
    (p.set8 r v).sp = p.sp ∧ (p.set8 r v).pc = p.pc ∧ (p.set8 r v).ime = p.ime ∧ (p.set8 r v).halted = p.halted := by
  cases r <;> exact ⟨rfl, rfl, rfl, rfl⟩

theorem Cpu.set16_control (p : Cpu) (rr : Reg16) (v : Word) :
    (p.set16 rr v).a = p.a ∧ (p.set16 rr v).flags = p.flags ∧ (p.set16 rr v).pc = p.pc ∧ (p.set16 rr v).ime = p.ime ∧
      (p.set16 rr v).halted = p.halted := by
  cases rr <;> exact ⟨rfl, rfl, rfl, rfl, rfl⟩

/-- Writing a register and the flags. -/
theorem setRegFlags_writes (s : State) (r : Reg8) (v : Byte) (f : Flags) : WritesReg8 r v f s (s.setRegFlags r v f) where
  value := Cpu.get8_set8_same s.cpu r v
  flags := rfl
  others := fun _ h => Cpu.get8_set8_other s.cpu r _ v h
  control := Cpu.set8_control s.cpu r v
  memory := fun _ => rfl
  rest := rfl

/-- Writing a register alone. -/
theorem setReg8_writes (s : State) (r : Reg8) (v : Byte) : WritesReg8 r v s.cpu.flags s (s.setReg8 r v) where
  value := Cpu.get8_set8_same s.cpu r v
  flags := Cpu.set8_flags s.cpu r v
  others := fun _ h => Cpu.get8_set8_other s.cpu r _ v h
  control := Cpu.set8_control s.cpu r v
  memory := fun _ => rfl
  rest := rfl

/-- Writing a pair or `SP`, and the flags. -/
theorem set16_writes (s : State) (rr : Reg16) (v : Word) (f : Flags) :
    WritesReg16 rr v f s (s.withCpu { s.cpu.set16 rr v with flags := f }) := by
  obtain ⟨ha, _, hpc, hime, hhalted⟩ := Cpu.set16_control s.cpu rr v
  have hget : ∀ q, ({ s.cpu.set16 rr v with flags := f } : Cpu).get16 q = (s.cpu.set16 rr v).get16 q := fun q => by cases q <;> rfl
  exact ⟨(hget rr).trans (Cpu.get16_set16_same s.cpu rr v), rfl, fun q h => (hget q).trans (Cpu.get16_set16_other s.cpu rr q v h),
    ⟨ha, hpc, hime, hhalted⟩, fun _ => rfl, rfl⟩

/-- Writing a pair or `SP` alone. -/
theorem set16_writes_keepFlags (s : State) (rr : Reg16) (v : Word) :
    WritesReg16 rr v s.cpu.flags s (s.withCpu (s.cpu.set16 rr v)) := by
  have h := set16_writes s rr v s.cpu.flags
  rwa [show { s.cpu.set16 rr v with flags := s.cpu.flags } = s.cpu.set16 rr v by cases rr <;> rfl] at h

/-- Settles O11: each form writes its destination by `set8` or `set16`. -/
theorem registerLoads : Obligations.RegisterLoads := fun s =>
  ⟨fun r r' => ⟨_, rfl, setReg8_writes s r (s.cpu.get8 r')⟩, fun r n => ⟨_, rfl, setReg8_writes s r n⟩,
    fun rr nn => ⟨_, rfl, set16_writes_keepFlags s rr nn⟩⟩

/-- Settles O20: the flags byte read bit by bit. -/
theorem flagsByte : Obligations.FlagsByte := by
  refine fun f v => ⟨?_, ?_, Flags.ofByte_toByte f, Flags.toByte_ofByte v⟩
  · obtain ⟨z, n, h, c⟩ := f
    revert z n h c
    decide
  · obtain ⟨z, n, h, c⟩ := f
    revert z n h c
    decide

/-! ### The operations on the accumulator -/

theorem add8_eq (a b : Byte) (cin : Bool) :
    add8 a b cin =
      (a + b + BitVec.ofNat 8 cin.toNat,
        { z := a + b + BitVec.ofNat 8 cin.toNat == 0x00#8, n := false,
          h := decide (a.toNat % 16 + b.toNat % 16 + cin.toNat > 15), c := decide (a.toNat + b.toNat + cin.toNat > 255) }) := by
  simp only [add8, BitVec.ofNat_add, BitVec.ofNat_toNat, BitVec.setWidth_eq]

theorem sub8_eq (a b : Byte) (cin : Bool) : sub8 a b cin = (a - b - BitVec.ofNat 8 cin.toNat, subtractFlags a b cin) := by
  have hres : BitVec.ofInt 8 ((a.toNat : Int) - (b.toNat : Int) - (cin.toNat : Int)) = a - b - BitVec.ofNat 8 cin.toNat := by
    have := a.isLt
    have := b.isLt
    cases cin <;> (apply BitVec.eq_of_toNat_eq; simp [BitVec.toNat_sub, BitVec.toNat_ofInt]; omega)
  simp only [sub8, hres, subtractFlags]

theorem aluApply_add (b : Byte) (s : State) : aluApply aluAdd b s = afterAdd s b false := by
  simp only [aluApply, aluAdd, add8_eq]
  rfl

theorem aluApply_adc (b : Byte) (s : State) : aluApply aluAdc b s = afterAdd s b s.cpu.flags.c := by
  simp only [aluApply, aluAdc, add8_eq]
  rfl

theorem aluApply_sub (b : Byte) (s : State) : aluApply aluSub b s = afterSub s b false := by
  simp only [aluApply, aluSub, sub8_eq]
  rfl

theorem aluApply_sbc (b : Byte) (s : State) : aluApply aluSbc b s = afterSub s b s.cpu.flags.c := by
  simp only [aluApply, aluSbc, sub8_eq]
  rfl

theorem aluApply_cp (b : Byte) (s : State) : aluApply aluCp b s = afterCompare s b := by
  simp only [aluApply, aluCp, sub8_eq]
  rfl

theorem aluApply_and (b : Byte) (s : State) : aluApply aluAnd b s = afterLogic s (s.cpu.a &&& b) true := rfl

theorem aluApply_xor (b : Byte) (s : State) : aluApply aluXor b s = afterLogic s (s.cpu.a ^^^ b) false := rfl

theorem aluApply_or (b : Byte) (s : State) : aluApply aluOr b s = afterLogic s (s.cpu.a ||| b) false := rfl

/-- Settles O21: the operand of a register and of an immediate, each by `aluApply`. -/
theorem addAndAdc : Obligations.AddAndAdc := fun s r n =>
  ⟨congrArg Host.Outcome.next (aluApply_add (s.cpu.get8 r) s), congrArg Host.Outcome.next (aluApply_add n s),
    congrArg Host.Outcome.next (aluApply_adc (s.cpu.get8 r) s), congrArg Host.Outcome.next (aluApply_adc n s)⟩

/-- Settles O22: as O21, for the six other operations. -/
theorem subtractAndLogic : Obligations.SubtractAndLogic := fun s r n =>
  ⟨⟨congrArg Host.Outcome.next (aluApply_sub (s.cpu.get8 r) s), congrArg Host.Outcome.next (aluApply_sub n s)⟩,
    ⟨congrArg Host.Outcome.next (aluApply_sbc (s.cpu.get8 r) s), congrArg Host.Outcome.next (aluApply_sbc n s)⟩,
    ⟨congrArg Host.Outcome.next (aluApply_cp (s.cpu.get8 r) s), congrArg Host.Outcome.next (aluApply_cp n s)⟩,
    ⟨congrArg Host.Outcome.next (aluApply_and (s.cpu.get8 r) s), congrArg Host.Outcome.next (aluApply_and n s)⟩,
    ⟨congrArg Host.Outcome.next (aluApply_xor (s.cpu.get8 r) s), congrArg Host.Outcome.next (aluApply_xor n s)⟩,
    ⟨congrArg Host.Outcome.next (aluApply_or (s.cpu.get8 r) s), congrArg Host.Outcome.next (aluApply_or n s)⟩⟩

/-- Settles O23: the one read with its tick gives the operand, and the rest is `aluApply`. -/
theorem aluOnMemory : Obligations.AluOnMemory := by
  intro s hq hr
  obtain ⟨v, u, h⟩ := memRead_reads hq hr
  have run (op : AluOp) : finish (aluHl op s) = .next (aluApply op v u) := by
    rw [aluHl, readAtHl, h.run]
    rfl
  refine ⟨v, u, h, ?_⟩
  rw [← h.device.cpu, ← aluApply_add, ← aluApply_adc, ← aluApply_sub, ← aluApply_sbc, ← aluApply_cp, ← aluApply_and, ← aluApply_xor,
    ← aluApply_or]
  exact ⟨run _, run _, run _, run _, run _, run _, run _, run _⟩

/-- What a change of a register in place writes. -/
theorem modifyReg_writes (op : ByteOp) (r : Reg8) (s : State) :
    ∃ t, finish (modifyReg op r s) = .next t ∧
      WritesReg8 r (op s.cpu.flags (s.cpu.get8 r)).1 (op s.cpu.flags (s.cpu.get8 r)).2 s t :=
  ⟨_, rfl, setRegFlags_writes s r _ _⟩

theorem inc8_eq (f : Flags) (v : Byte) :
    inc8 f v = (v + 1#8, { f with z := v + 1#8 == 0x00#8, n := false, h := decide (v.toNat % 16 = 15) }) := by
  have hh : (v.extractLsb' 0 4 == 0xF#4) = decide (v.toNat % 16 = 15) := by
    revert v
    decide
  rw [inc8, hh]

theorem dec8_eq (f : Flags) (v : Byte) :
    dec8 f v = (v - 1#8, { f with z := v - 1#8 == 0x00#8, n := true, h := decide (v.toNat % 16 = 0) }) := by
  have hh : (v.extractLsb' 0 4 == 0x0#4) = decide (v.toNat % 16 = 0) := by
    revert v
    decide
  rw [dec8, hh]

/-- Settles O24: the zero flag tested on the operand. -/
theorem incAndDecRegister : Obligations.IncAndDecRegister := by
  have hinc (v : Byte) : (v + 1#8 == 0x00#8) = (v == 0xFF#8) := by
    revert v
    decide
  have hdec (v : Byte) : (v - 1#8 == 0x00#8) = (v == 0x01#8) := by
    revert v
    decide
  intro s r
  have hi := modifyReg_writes inc8 r s
  have hd := modifyReg_writes dec8 r s
  rw [inc8_eq, hinc] at hi
  rw [dec8_eq, hdec] at hd
  exact ⟨hi, hd⟩

/-- Settles O28: the complement of a byte is 0xFF less it. -/
theorem complementAndCarry : Obligations.ComplementAndCarry := by
  have hcpl (v : Byte) : ~~~v = 0xFF#8 - v := by
    revert v
    decide
  refine fun s => ⟨?_, rfl, rfl⟩
  rw [← hcpl]
  rfl

end Sys2Proof.Machine

/-!
SUPPORT. The rotates and shifts, single bits, and the decimal adjust, in the arithmetic of bytes.
-/

namespace Sys2Proof.Machine

/-! ### Rotates and shifts -/

theorem shiftRlc_eq : ∀ (cin : Bool) (v : Byte), shiftRlc cin v = rotated 0 cin v := by decide

theorem shiftRrc_eq : ∀ (cin : Bool) (v : Byte), shiftRrc cin v = rotated 1 cin v := by decide

theorem shiftRl_eq : ∀ (cin : Bool) (v : Byte), shiftRl cin v = rotated 2 cin v := by decide

theorem shiftRr_eq : ∀ (cin : Bool) (v : Byte), shiftRr cin v = rotated 3 cin v := by decide

theorem shiftSla_eq : ∀ (cin : Bool) (v : Byte), shiftSla cin v = rotated 4 cin v := by decide

theorem shiftSra_eq : ∀ (cin : Bool) (v : Byte), shiftSra cin v = rotated 5 cin v := by decide

theorem shiftSwap_eq : ∀ (cin : Bool) (v : Byte), shiftSwap cin v = rotated 6 cin v := by decide

theorem shiftSrl_eq : ∀ (cin : Bool) (v : Byte), shiftSrl cin v = rotated 7 cin v := by decide

/-- A shift with its flags, once the shift itself is `rotated`. -/
theorem shiftByte_eq {op : ShiftOp} {y : Fin 8} (h : ∀ cin v, op cin v = rotated y cin v) : shiftByte op = rotatedWithFlags y := by
  funext f v
  rw [shiftByte, h]
  rfl

/-- Settles O30: the four accumulator rotates are the first four shifts. -/
theorem accumulatorRotates : Obligations.AccumulatorRotates := by
  intro s
  dsimp only
  rw [← shiftRlc_eq, ← shiftRrc_eq, ← shiftRl_eq, ← shiftRr_eq]
  exact ⟨rfl, rfl, rfl, rfl⟩

/-- Settles O31: a register changed in place by a shift with its flags. -/
theorem prefixedRotates : Obligations.PrefixedRotates := by
  intro s y r
  have run {op : ShiftOp} (h : ∀ cin v, op cin v = rotated y cin v) :
      ∃ t, finish (modifyReg (shiftByte op) r s) = .next t ∧
        WritesReg8 r (rotatedWithFlags y s.cpu.flags (s.cpu.get8 r)).1 (rotatedWithFlags y s.cpu.flags (s.cpu.get8 r)).2 s t := by
    rw [← shiftByte_eq h]
    exact modifyReg_writes _ r s
  match y with
  | 0 => exact run shiftRlc_eq
  | 1 => exact run shiftRrc_eq
  | 2 => exact run shiftRl_eq
  | 3 => exact run shiftRr_eq
  | 4 => exact run shiftSla_eq
  | 5 => exact run shiftSra_eq
  | 6 => exact run shiftSwap_eq
  | 7 => exact run shiftSrl_eq

/-! ### Single bits -/

/-- Settles O32: a register's bit is read in place, and the byte at `HL` by one read with its tick. -/
theorem bitTests : Obligations.BitTests := by
  refine fun s bn => ⟨fun r => rfl, fun hq hr => ?_⟩
  obtain ⟨v, u, h⟩ := memRead_reads hq hr
  refine ⟨v, u, h, ?_⟩
  rw [← h.device.cpu]
  show finish ((readAtHl s).andThen _) = _
  rw [readAtHl, h.run]
  rfl

theorem oneShifted_getLsbD (bn : Fin 8) (k : Nat) : (1#8 <<< bn.val).getLsbD k = decide (k = bn.val) := by
  have := bn.isLt
  rw [← BitVec.twoPow_eq, BitVec.getLsbD_twoPow]
  grind

theorem resetBit_getLsbD (bn : Fin 8) (v : Byte) (k : Nat) :
    (resetBit bn v).getLsbD k = if k = bn.val then false else v.getLsbD k := by
  have := v.getLsbD_of_ge k
  rw [resetBit, BitVec.getLsbD_and, BitVec.getLsbD_not, oneShifted_getLsbD]
  grind

theorem setBit_getLsbD (bn : Fin 8) (v : Byte) (k : Nat) :
    (setBit bn v).getLsbD k = if k = bn.val then true else v.getLsbD k := by
  rw [setBit, BitVec.getLsbD_or, oneShifted_getLsbD]
  grind

/-- Settles O33: one bit of the register's value, and no flag. -/
theorem resAndSetRegister : Obligations.ResAndSetRegister := fun s bn r =>
  ⟨⟨_, _, rfl, setRegFlags_writes s r (resetBit bn (s.cpu.get8 r)) s.cpu.flags, resetBit_getLsbD bn _⟩,
    ⟨_, _, rfl, setRegFlags_writes s r (setBit bn (s.cpu.get8 r)) s.cpu.flags, setBit_getLsbD bn _⟩⟩

/-! ### The decimal adjust -/

/-- Whether `DAA` corrects the low digit. -/
def daaLow (a : Byte) (f : Flags) : Bool := f.h || (!f.n && decide (a.toNat % 16 > 9))

/-- Whether `DAA` corrects the high digit, tested on the operand (92_eei_decisions.md D22). -/
def daaHigh (a : Byte) (f : Flags) : Bool := f.c || (!f.n && decide (a.toNat > 0x99))

/-- The correction of `DAA`. -/
def daaCorrection (a : Byte) (f : Flags) : Byte :=
  (if daaLow a f then 0x06#8 else 0x00#8) + (if daaHigh a f then 0x60#8 else 0x00#8)

/-- The result of `DAA`. -/
def daaResult (a : Byte) (f : Flags) : Byte := if f.n then a - daaCorrection a f else a + daaCorrection a f

theorem ofInt_add_nat (a c : Byte) : BitVec.ofInt 8 ((a.toNat : Int) + (c.toNat : Int)) = a + c := by
  apply BitVec.eq_of_toNat_eq
  simp [BitVec.toNat_ofInt]
  omega

theorem ofInt_sub_nat (a c : Byte) : BitVec.ofInt 8 ((a.toNat : Int) - (c.toNat : Int)) = a - c := by
  have := c.isLt
  apply BitVec.eq_of_toNat_eq
  simp [BitVec.toNat_ofInt, BitVec.toNat_sub]
  omega

/-- The high test on the corrected integer is the high test on the operand. -/
theorem daaAdjust_eq (a : Byte) (f : Flags) :
    daaAdjust a f =
      (if f.n then (a.toNat : Int) - (daaCorrection a f).toNat else (a.toNat : Int) + (daaCorrection a f).toNat, daaHigh a f) := by
  obtain ⟨z, n, h, c⟩ := f
  have hsix : (159 : Int) < (a.toNat : Int) + 6 ↔ a.toNat > 0x99 := by omega
  cases n
  · by_cases hlow : a.toNat % 16 > 9 <;> by_cases hhigh : a.toNat > 0x99 <;> cases h <;> cases c <;>
      simp [daaAdjust, daaCorrection, daaLow, daaHigh, hlow, hhigh, hsix] <;> omega
  · cases h <;> cases c <;> simp [daaAdjust, daaCorrection, daaLow, daaHigh]
    omega

/-- `DAA` as a correction tested on the operand itself. -/
theorem daa8_eq (a : Byte) (f : Flags) :
    daa8 a f = (daaResult a f, { f with z := daaResult a f == 0x00#8, h := false, c := daaHigh a f }) := by
  have hres : BitVec.ofInt 8 (daaAdjust a f).1 = daaResult a f := by
    rw [daaAdjust_eq, daaResult]
    split
    · exact ofInt_sub_nat a _
    · exact ofInt_add_nat a _
  have hcarry : (daaAdjust a f).2 = daaHigh a f := by rw [daaAdjust_eq]
  simp only [daa8, hres, hcarry]

/-- Settles O26: `daa8_eq` in the state. -/
theorem decimalAdjust : Obligations.DecimalAdjust := by
  intro s
  show finish (.ok () (s.setAF (daa8 s.cpu.a s.cpu.flags))) = _
  rw [daa8_eq]
  rfl

/-! ### Two-digit decimals -/

theorem toNat_bcd {x : Nat} (h : x < 100) : (bcd x).toNat = 16 * (x / 10) + x % 10 := by
  rw [bcd, BitVec.toNat_ofNat]
  omega

/-- Two two-digit decimals, `p q` and `r t`, sum to a hundred exactly when their bytes carry out or sum above 0x99. -/
theorem hundred_iff {x y p q r t : Nat} (hq : q < 10) (ht : t < 10) (hx : x = 10 * p + q) (hy : y = 10 * r + t) :
    (16 * p + q + (16 * r + t) > 255 ∨ (16 * p + q + (16 * r + t)) % 256 > 0x99) ↔ x + y ≥ 100 := by
  by_cases hover : 16 * p + q + (16 * r + t) > 255
  · omega
  · rw [Nat.mod_eq_of_lt (by omega)]
    omega

/-- `DAA` after the sum of two-digit decimals: the digits' carries are the two corrections. -/
theorem daa_after_add {x y : Nat} (hx : x < 100) (hy : y < 100) {f : Flags} (hn : f.n = false)
    (hh : f.h = decide (x % 10 + y % 10 > 15)) (hc : f.c = decide ((bcd x).toNat + (bcd y).toNat > 255)) :
    daaResult (bcd x + bcd y) f = bcd ((x + y) % 100) ∧ daaHigh (bcd x + bcd y) f = decide (x + y ≥ 100) := by
  have hsum : (bcd x + bcd y).toNat = (16 * (x / 10) + x % 10 + (16 * (y / 10) + y % 10)) % 256 := by
    rw [BitVec.toNat_add, toNat_bcd hx, toNat_bcd hy]
  rw [toNat_bcd hx, toNat_bcd hy] at hc
  have hlow : daaLow (bcd x + bcd y) f = decide (x % 10 + y % 10 > 9) := by
    simp only [daaLow, hn, hh, hsum, Bool.not_false, Bool.true_and, ← Bool.decide_or, decide_eq_decide]
    omega
  have hhigh : daaHigh (bcd x + bcd y) f = decide (x + y ≥ 100) := by
    simp only [daaHigh, hn, hc, hsum, Bool.not_false, Bool.true_and, ← Bool.decide_or, decide_eq_decide]
    exact hundred_iff (x.mod_lt (by decide)) (y.mod_lt (by decide)) (x.div_add_mod 10).symm (y.div_add_mod 10).symm
  have hz : (bcd ((x + y) % 100)).toNat = 16 * ((x + y) % 100 / 10) + (x + y) % 100 % 10 := toNat_bcd (by omega)
  refine ⟨?_, hhigh⟩
  rw [daaResult, hn, if_neg Bool.false_ne_true, daaCorrection, hlow, hhigh]
  apply BitVec.eq_of_toNat_eq
  rw [BitVec.toNat_add, hsum, hz]
  by_cases h1 : x % 10 + y % 10 > 9 <;> by_cases h2 : x + y ≥ 100 <;> simp [h1, h2] <;> omega

/-- `DAA` after the difference of two-digit decimals: the digits' borrows are the two corrections. -/
theorem daa_after_sub {x y : Nat} (hx : x < 100) (hy : y < 100) {f : Flags} (hn : f.n = true)
    (hh : f.h = decide (x % 10 < y % 10)) (hc : f.c = decide (x < y)) :
    daaResult (bcd x - bcd y) f = bcd ((x + 100 - y) % 100) ∧ daaHigh (bcd x - bcd y) f = decide (x < y) := by
  have hz : (bcd ((x + 100 - y) % 100)).toNat = 16 * ((x + 100 - y) % 100 / 10) + (x + 100 - y) % 100 % 10 := toNat_bcd (by omega)
  have hlow : daaLow (bcd x - bcd y) f = decide (x % 10 < y % 10) := by simp [daaLow, hn, hh]
  have hhigh : daaHigh (bcd x - bcd y) f = decide (x < y) := by simp [daaHigh, hn, hc]
  refine ⟨?_, hhigh⟩
  rw [daaResult, hn, if_pos rfl, daaCorrection, hlow, hhigh]
  apply BitVec.eq_of_toNat_eq
  rw [BitVec.toNat_sub, BitVec.toNat_sub, toNat_bcd hx, toNat_bcd hy, hz]
  by_cases h1 : x % 10 < y % 10 <;> by_cases h2 : x < y <;> simp [h1, h2] <;> omega

/-- Settles O27: the flags of the addition or subtraction are those that `daa_after_add` and `daa_after_sub` ask for. -/
theorem decimalArithmetic : Obligations.DecimalArithmetic := by
  intro s x y hx hy ha
  have hdaa (t : State) : exec .daa t = .next (t.setAF (daa8 t.cpu.a t.cpu.flags)) := rfl
  obtain ⟨_, hadd, _⟩ := addAndAdc s .a (bcd y)
  obtain ⟨⟨_, hsub⟩, _⟩ := subtractAndLogic s .a (bcd y)
  have hxd : (bcd x).toNat % 16 = x % 10 := by rw [toNat_bcd hx]; omega
  have hyd : (bcd y).toNat % 16 = y % 10 := by rw [toNat_bcd hy]; omega
  refine ⟨⟨_, _, hadd, hdaa _, ?_⟩, ⟨_, _, hsub, hdaa _, ?_⟩⟩
  · rw [daa8_eq]
    have h := daa_after_add hx hy (f := (afterAdd s (bcd y) false).cpu.flags) rfl
      (by simp [afterAdd, ha, hxd, hyd]) (by simp [afterAdd, ha])
    have ha' : (afterAdd s (bcd y) false).cpu.a = bcd x + bcd y := by simp [afterAdd, ha]
    rw [← ha'] at h
    exact h
  · rw [daa8_eq]
    have h := daa_after_sub hx hy (f := (afterSub s (bcd y) false).cpu.flags) rfl
      (by simp [afterSub, subtractFlags, ha, hxd, hyd])
      (by simp only [afterSub, subtractFlags, ha, toNat_bcd hx, toNat_bcd hy, decide_eq_decide, Bool.toNat_false]; omega)
    have ha' : (afterSub s (bcd y) false).cpu.a = bcd x - bcd y := by simp [afterSub, ha]
    rw [← ha'] at h
    exact h

end Sys2Proof.Machine

/-!
SUPPORT. The forms that go through memory or spend ticks: loads and stores of a byte, changes of the byte at `HL`, pairs, and the stack.
-/

namespace Sys2Proof.Machine

/-! ### Forms -/

theorem highPage_eq (n : Byte) : highPage n = 0xFF00#16 + n.setWidth 16 := by
  apply BitVec.eq_of_toNat_eq
  rw [highPage, toNat_joinBytes]
  simp
  omega

theorem exec_loadForm {i : Instr} {s : State} {r : Reg8} {a : Word} (h : loadForm i s = some (r, a)) :
    exec i s = finish (loadReg r a s) := by
  cases i with
  | ldRHl | ldABc | ldADe | ldANn =>
    cases h
    rfl
  | ldhAC =>
    cases h
    exact congrArg (fun b => finish (loadReg .a b s)) (highPage_eq s.cpu.c)
  | ldhAN n =>
    cases h
    exact congrArg (fun b => finish (loadReg .a b s)) (highPage_eq n)
  | _ => cases h

theorem exec_storeForm {i : Instr} {s : State} {a : Word} {v : Byte} (h : storeForm i s = some (a, v)) :
    exec i s = finish (memWrite a v s) := by
  cases i with
  | ldHlR | ldHlN | ldBcA | ldDeA | ldNnA =>
    cases h
    rfl
  | ldhCA =>
    cases h
    exact congrArg (fun b => finish (memWrite b s.cpu.a s)) (highPage_eq s.cpu.c)
  | ldhNA n =>
    cases h
    exact congrArg (fun b => finish (memWrite b s.cpu.a s)) (highPage_eq n)
  | _ => cases h

theorem resByte_eq (bn : Fin 8) : resByte bn = fun f v => (v &&& ~~~BitVec.twoPow 8 bn.val, f) := by
  funext f v
  rw [resByte, resetBit, BitVec.twoPow_eq]

theorem setByteBit_eq (bn : Fin 8) : setByteBit bn = fun f v => (v ||| BitVec.twoPow 8 bn.val, f) := by
  funext f v
  rw [setByteBit, setBit, BitVec.twoPow_eq]

theorem exec_modifyForm {i : Instr} {op : Flags → Byte → Byte × Flags} (h : modifyForm i = some op) (s : State) :
    exec i s = finish (modifyHl op s) := by
  unfold modifyForm at h
  simp only [← shiftByte_eq shiftRlc_eq, ← shiftByte_eq shiftRrc_eq, ← shiftByte_eq shiftRl_eq, ← shiftByte_eq shiftRr_eq,
    ← shiftByte_eq shiftSla_eq, ← shiftByte_eq shiftSra_eq, ← shiftByte_eq shiftSwap_eq, ← shiftByte_eq shiftSrl_eq, ← inc8_eq,
    ← dec8_eq, ← resByte_eq, ← setByteBit_eq] at h
  split at h <;> cases h <;> rfl

/-! ### Loads and stores of a byte -/

/-- Settles O12: one read with its tick, then the register; for two forms `HL` then moves. -/
theorem memoryLoads : Obligations.MemoryLoads := by
  refine ⟨fun s i r a hi hq hr => ?_, fun s hq hr => ?_⟩
  · obtain ⟨v, u, h, hrun⟩ := loadReg_loads r hq hr
    refine ⟨v, u, _, h, ?_, by rw [exec_loadForm hi, hrun]; rfl⟩
    rw [← h.device.cpu]
    exact setReg8_writes u r v
  · obtain ⟨v, u, h, hrun⟩ := loadReg_loads .a hq hr
    have step (d : Word) : finish (stepHl d (loadReg .a s.cpu.hl s)) =
        .next (u.withCpu { s.cpu with a := v, h := highByte (s.cpu.hl + d), l := lowByte (s.cpu.hl + d) }) := by
      rw [hrun, ← h.device.cpu]
      rfl
    refine ⟨v, u, h, step 1#16, ?_⟩
    rw [BitVec.sub_eq_add_neg]
    exact step (-1#16)

/-- Settles O13: one write with its tick; for two forms `HL` then moves. -/
theorem memoryStores : Obligations.MemoryStores := by
  refine ⟨fun s i a v hi hq hs => ?_, fun s hq hs => ?_⟩
  · obtain ⟨t, h⟩ := memWrite_stores v hq hs
    exact ⟨t, h, by rw [exec_storeForm hi, h.run]; rfl⟩
  · obtain ⟨u, h⟩ := memWrite_stores s.cpu.a hq hs
    have step (d : Word) : finish (stepHl d (writeAtHl s.cpu.a s)) =
        .next (u.withCpu { s.cpu with h := highByte (s.cpu.hl + d), l := lowByte (s.cpu.hl + d) }) := by
      rw [writeAtHl, h.run, ← h.cpu]
      rfl
    refine ⟨u, h, step 1#16, ?_⟩
    rw [BitVec.sub_eq_add_neg]
    exact step (-1#16)

/-- A trap that ends an instruction where it stands. -/
theorem traps_of_raised {i : Instr} {s u : State} {f : Fault} (hd : DeviceOnly s u) (h : exec i s = .next { u with fault := some f }) :
    ∃ t, exec i s = .next t ∧ t.fault = some f ∧ t.cpu = s.cpu ∧ t.mem = s.mem :=
  ⟨_, h, rfl, hd.cpu, hd.mem⟩

/-- Settles O14: a read or a write that traps ends the operation, `HL` not moved. -/
theorem unownedAddressFaults : Obligations.UnownedAddressFaults := by
  intro s i f hq
  refine ⟨fun r a hi h => ?_, fun a v hi h => ?_, fun hi h => ?_, fun hi h => ?_⟩
  · obtain ⟨u, hd, hrun⟩ := memRead_traps hq h
    exact traps_of_raised hd (by rw [exec_loadForm hi, loadReg, hrun]; rfl)
  · obtain ⟨u, hd, hrun⟩ := memWrite_traps v hq h
    exact traps_of_raised hd (by rw [exec_storeForm hi, hrun]; rfl)
  · obtain ⟨u, hd, hrun⟩ := memRead_traps hq h
    have step (d : Word) : finish (stepHl d (loadReg .a s.cpu.hl s)) = .next { u with fault := some f } := by
      rw [loadReg, hrun]
      rfl
    simp only [List.mem_cons, List.not_mem_nil, or_false] at hi
    rcases hi with rfl | rfl
    · exact traps_of_raised hd (step 1#16)
    · exact traps_of_raised hd (step (-1#16))
  · obtain ⟨u, hd, hrun⟩ := memWrite_traps s.cpu.a hq h
    have step (d : Word) : finish (stepHl d (writeAtHl s.cpu.a s)) = .next { u with fault := some f } := by
      rw [writeAtHl, hrun]
      rfl
    simp only [List.mem_cons, List.not_mem_nil, or_false] at hi
    rcases hi with rfl | rfl
    · exact traps_of_raised hd (step 1#16)
    · exact traps_of_raised hd (step (-1#16))

/-- Settles O15: the store holds the byte at its place, and the load reads it there. -/
theorem storeThenLoad : Obligations.StoreThenLoad := by
  intro s nn p hq hp
  obtain ⟨hs, hdev⟩ := storable_of_place hp
  obtain ⟨t, h⟩ := memWrite_storedTick s.cpu.a hq hs
  have hk := (h.held p hp).specials
  have hpt : placeOf t nn = some p := (placeOf_congr nn hk.cart hk.colour hk.colorMode).trans hp
  have hread : busRead t nn = .byte s.cpu.a := by rw [busRead_place hpt, (h.held p hp).bytes, if_pos rfl]
  obtain ⟨v, w, hv, hrun⟩ := loadReg_loads (s := t) .a (h.stored.quiet.trans hq) (readable_of_storable (storable_of_place hpt).1)
  have hshown := hv.shown (by rw [hk.colorMode]; exact hdev)
  rw [hread] at hshown
  cases hshown
  refine ⟨t, w.setReg8 .a s.cpu.a, ?_, ?_, ?_, hread, fun b hb hne => ?_⟩
  · show finish (memWrite nn s.cpu.a s) = _
    rw [h.run]
    rfl
  · show finish (loadReg .a nn t) = _
    rw [hrun]
    rfl
  · show { w.cpu with a := s.cpu.a } = s.cpu
    rw [hv.device.cpu, h.stored.cpu]
  · rw [(h.held p hp).one b hb]
    cases hb' : placeOf s b with
    | none => rfl
    | some q =>
      have hqp : (q == p) = false := beq_false_of_ne fun e => hne (hb'.trans (congrArg some e))
      simp [List.lookup, hqp]

/-! ### The byte at `HL` changed in place -/

/-- Settles O25: `modifyHl` with the operation that `modifyForm` names. -/
theorem readModifyWrite : Obligations.ReadModifyWrite := by
  intro s i op hi hq hs
  obtain ⟨v, u, t, hr, hw, hrun⟩ := modifyHl_modifies op hq hs
  exact ⟨v, u, t, hr, hw, by rw [exec_modifyForm hi, hrun]; rfl⟩

/-- A change of an operand completes where the byte at `HL` can be stored to. -/
theorem modifyOperand_completes (op : ByteOp) (r : Option Reg8) {s : State} (hq : quiet s = true) (hs : storable s s.cpu.hl = true) :
    ∃ t, finish (modifyOperand op r s) = .next t ∧ t.fault = s.fault ∧ t.cpu.pc = s.cpu.pc := by
  cases r with
  | some r => exact ⟨_, rfl, rfl, (Cpu.set8_control s.cpu r _).2.1⟩
  | none =>
    obtain ⟨v, u, t, hr, hw, hrun⟩ := modifyHl_modifies op hq hs
    have hpc : u.cpu.pc = s.cpu.pc := by rw [hr.device.cpu]
    exact ⟨t, by rw [modifyOperand, hrun]; rfl, hw.fault.trans hr.device.specials.fault, (congrArg Cpu.pc hw.cpu).trans hpc⟩

/-- A bit test of an operand completes where the byte at `HL` can be read. -/
theorem testOperand_completes (bn : Fin 8) (r : Option Reg8) {s : State} (hq : quiet s = true) (hr : readable s s.cpu.hl = true) :
    ∃ t, finish (testOperand bn r s) = .next t ∧ t.fault = s.fault ∧ t.cpu.pc = s.cpu.pc := by
  cases r with
  | some r => exact ⟨_, rfl, rfl, rfl⟩
  | none =>
    obtain ⟨v, u, h⟩ := memRead_reads hq hr
    have hpc : u.cpu.pc = s.cpu.pc := by rw [h.device.cpu]
    exact ⟨u.setFlags (bitFlags u.cpu.flags bn v), by rw [testOperand, readAtHl, h.run]; rfl, h.device.specials.fault, hpc⟩

/-- Settles O5: each row of the prefixed map changes or tests one operand. -/
theorem prefixRunsSelected : Obligations.PrefixRunsSelected := by
  refine fun sub s => ⟨exec_prefixCb sub s, fun hq hs => ?_⟩
  show ∃ t, execPrefixCb sub s = .next t ∧ _
  unfold execPrefixCb
  split
  · exact modifyOperand_completes _ _ hq hs
  · exact testOperand_completes _ _ hq (readable_of_storable hs)
  · exact modifyOperand_completes _ _ hq hs
  · exact modifyOperand_completes _ _ hq hs

/-! ### Pairs and `SP` -/

/-- An operation that ends in a tick answers the state after it. -/
theorem finish_tick {s t : State} (h : Ticks s t) : finish (internalTick s) = .next t := by
  rw [internalTick, h.run]
  rfl

theorem addHl16_eq (f : Flags) (a b : Word) :
    addHl16 f a b =
      (a + b, { f with
        n := false, h := decide ((a &&& 0x0FFF#16).toNat + (b &&& 0x0FFF#16).toNat > 0x0FFF),
        c := decide (a.toNat + b.toNat > 0xFFFF) }) := by
  have hmask (v : Word) : (v &&& 0x0FFF#16).toNat = v.toNat % 4096 := by
    rw [BitVec.toNat_and]
    exact Nat.and_two_pow_sub_one_eq_mod _ 12
  rw [hmask, hmask, addHl16]

/-- Settles O29: the pair is written and one tick is spent. -/
theorem pairArithmetic : Obligations.PairArithmetic := by
  intro s rr hq
  have run (p : Cpu) : ∃ t, Ticks (s.withCpu p) t := tick_ticks hq
  obtain ⟨t, ht⟩ := run (s.cpu.set16 rr (s.cpu.get16 rr + 1#16))
  obtain ⟨u, hu⟩ := run (s.cpu.set16 rr (s.cpu.get16 rr - 1#16))
  refine ⟨⟨_, t, set16_writes_keepFlags s rr _, ht, finish_tick ht⟩,
    ⟨_, u, set16_writes_keepFlags s rr _, hu, finish_tick hu⟩, ?_⟩
  obtain ⟨w, hw⟩ := run { s.cpu.set16 .hl (s.cpu.hl + s.cpu.get16 rr) with flags := (addHl16 s.cpu.flags s.cpu.hl (s.cpu.get16 rr)).2 }
  have hm := set16_writes s .hl (s.cpu.hl + s.cpu.get16 rr) (addHl16 s.cpu.flags s.cpu.hl (s.cpu.get16 rr)).2
  refine ⟨_, w, ?_, hw, finish_tick hw⟩
  rw [addHl16_eq] at hm ⊢
  exact hm

theorem spPlus_eq (sp : Word) (e : Byte) :
    spPlus sp e =
      (sp + e.signExtend 16,
        { z := false, n := false, h := decide (sp.toNat % 16 + e.toNat % 16 > 15), c := decide (sp.toNat % 256 + e.toNat > 255) }) := by
  have hlo : (lowByte sp).toNat % 16 = sp.toNat % 16 := by
    rw [toNat_lowByte]
    omega
  simp only [spPlus, hlo, sext16]
  rw [toNat_lowByte]

/-- Settles O16: the sum of `spPlus`, then one tick or two. -/
theorem stackPointerSums : Obligations.StackPointerSums := by
  intro s e hq
  have run (p : Cpu) : ∃ t, Ticks (s.withCpu p) t := tick_ticks hq
  obtain ⟨t, ht⟩ := run { s.cpu with sp := s.cpu.hl }
  refine ⟨⟨t, ht, finish_tick ht⟩, ?_⟩
  have hsum := spPlus_eq s.cpu.sp e
  obtain ⟨u, hu⟩ := run { s.cpu.setHl (spPlus s.cpu.sp e).1 with flags := (spPlus s.cpu.sp e).2 }
  obtain ⟨v, hv⟩ := run { s.cpu with sp := (spPlus s.cpu.sp e).1, flags := (spPlus s.cpu.sp e).2 }
  obtain ⟨w, hw⟩ := tick_ticks (hv.device.quiet.trans hq)
  have hldHl : exec (.ldHlSpE e) s = .next u := finish_tick hu
  have haddSp : exec (.addSpE e) s = .next w := by
    show finish ((internalTick (s.withCpu { s.cpu with sp := (spPlus s.cpu.sp e).1, flags := (spPlus s.cpu.sp e).2 })).andThen _) = _
    rw [internalTick, hv.run]
    exact finish_tick hw
  rw [hsum] at hu hv
  exact ⟨⟨u, hu, hldHl⟩, v, w, hv, hw, haddSp⟩

end Sys2Proof.Machine

/-!
SUPPORT. Transfers of control and the stack: what a pushed word reads as when it is popped again, and the dispatch of an interrupt.
-/

namespace Sys2Proof.Machine

/-! ### Jumps, calls and returns -/

/-- An operation under a condition. -/
theorem finish_onCond (cc : Cond) (op : State → Res Unit) (s : State) :
    finish (onCond cc op s) = if condHolds cc s.cpu.flags then finish (op s) else .next s := by
  unfold onCond
  split <;> rfl

/-- Settles O34: `jumpTo` where the condition holds. -/
theorem jumps : Obligations.Jumps := by
  refine ⟨fun f => ⟨rfl, rfl, rfl, rfl⟩, fun s cc nn e hq => ⟨rfl, ?_, ?_⟩⟩
  · obtain ⟨t, ht, hrun⟩ := jumpTo_jumps nn hq
    have hjp : finish (jumpTo nn s) = .next t := by rw [hrun]; rfl
    exact ⟨t, ht, hjp, (finish_onCond cc _ s).trans (by rw [hjp])⟩
  · obtain ⟨t, ht, hrun⟩ := jumpTo_jumps (s.cpu.pc + sext16 e) hq
    have hjr : finish (jumpTo (s.cpu.pc + sext16 e) s) = .next t := by rw [hrun]; rfl
    exact ⟨t, ht, hjr, (finish_onCond cc _ s).trans (by rw [hjr])⟩

/-- What a call does, whatever its target. -/
theorem callTo_target {s u t : State} (hu : Ticks s u) (ht : PushesWord s.cpu.pc u t) (target : Word) :
    finish (callTo target s) = .next (t.setPc target) := by
  rw [callTo, internalTick, hu.run, Res.ok_andThen, hu.device.cpu, ht.run]
  rfl

theorem joinBytes_zero (v : Byte) : joinBytes 0x00#8 v = v.setWidth 16 := by
  apply BitVec.eq_of_toNat_eq
  rw [toNat_joinBytes, BitVec.toNat_setWidth]
  have := v.isLt
  simp
  omega

/-- Settles O35: `callTo_target` for each target. -/
theorem calls : Obligations.Calls := by
  intro s cc nn hq ha hb
  obtain ⟨u, t, hu, ht, _⟩ := callTo_calls nn hq ha hb
  have hcall := callTo_target hu ht
  refine ⟨u, t, hu, ht, hcall nn, (finish_onCond cc _ s).trans (by rw [hcall]; rfl), fun v => ?_⟩
  rw [← joinBytes_zero]
  exact hcall _

/-- Settles O36: the one return, after a tick and under a condition in `RET cc`. -/
theorem returns : Obligations.Returns := by
  intro s cc hq ha hb
  constructor
  · obtain ⟨v, u, t, hp, ht, hrun⟩ := returnFromCall_returns hq ha hb
    refine ⟨v, u, t, hp, ht, ?_, ?_⟩
    · show finish (returnFromCall s) = _
      rw [hrun]
      rfl
    · show finish (returnFromInterrupt s) = _
      rw [returnFromInterrupt, hrun]
      rfl
  · obtain ⟨w, hw⟩ := tick_ticks hq
    have hd := hw.device
    have hret : exec (.retCc cc) s = if condHolds cc s.cpu.flags then finish (returnFromCall w) else .next w := by
      show finish ((internalTick s).andThen _) = _
      rw [internalTick, hw.run, Res.ok_andThen, finish_onCond, hd.cpu]
    refine ⟨w, hw, fun hc => by rw [hret, hc]; rfl, fun hc => ?_⟩
    obtain ⟨v, u, t, hp, ht, hrun⟩ := returnFromCall_returns (s := w) (hd.quiet.trans hq)
      (by rw [hd.cpu, hd.readable]; exact ha) (by rw [hd.cpu, hd.readable]; exact hb)
    exact ⟨v, u, t, hp, ht, by rw [hret, if_pos hc, hrun]; rfl⟩

/-! ### The stack -/

/-- Clearing the low nibble of a word clears that of its low byte. -/
theorem joinBytes_and_fff0 (hi lo : Byte) : joinBytes hi lo &&& 0xFFF0#16 = joinBytes hi (lo &&& 0xF0#8) := by
  rw [← joinBytes_high_low (joinBytes hi lo &&& 0xFFF0#16)]
  congr 1
  · rw [highByte, BitVec.extractLsb'_and, ← highByte, highByte_joinBytes]
    exact BitVec.and_allOnes
  · rw [lowByte, BitVec.extractLsb'_and, ← lowByte, lowByte_joinBytes]
    rfl

theorem Cpu.getStk_setStk_same (p : Cpu) (qq : Reg16Stk) (v : Word) :
    (p.setStk qq v).getStk qq = if qq = .af then v &&& 0xFFF0#16 else v := by
  cases qq with
  | af =>
    show joinBytes (highByte v) (Flags.ofByte (lowByte v)).toByte = v &&& 0xFFF0#16
    rw [Flags.toByte_ofByte, ← joinBytes_and_fff0, joinBytes_high_low]
  | _ => exact joinBytes_high_low v

theorem Cpu.getStk_setStk_other (p : Cpu) {qq q : Reg16Stk} (v : Word) (h : q ≠ qq) : (p.setStk qq v).getStk q = p.getStk q := by
  cases qq <;> cases q <;> first | rfl | exact absurd rfl h

theorem Cpu.setStk_control (p : Cpu) (qq : Reg16Stk) (v : Word) :
    (p.setStk qq v).sp = p.sp ∧ (p.setStk qq v).pc = p.pc ∧ (p.setStk qq v).ime = p.ime ∧ (p.setStk qq v).halted = p.halted := by
  cases qq <;> exact ⟨rfl, rfl, rfl, rfl⟩

/-- A pair written with its own value. -/
theorem Cpu.setStk_getStk (p : Cpu) (qq : Reg16Stk) : p.setStk qq (p.getStk qq) = p := by
  cases qq <;> simp [Cpu.setStk, Cpu.getStk, Cpu.setHl, Cpu.bc, Cpu.de, Cpu.hl, Cpu.af, highByte_joinBytes, lowByte_joinBytes,
    Flags.ofByte_toByte]

/-- `PUSH` in a machine that can store to its stack. -/
theorem exec_pushQq {s : State} (qq : Reg16Stk) (hq : quiet s = true) (ha : storable s (s.cpu.sp - 1#16) = true)
    (hb : storable s (s.cpu.sp - 2#16) = true) :
    ∃ u t, Ticks s u ∧ PushesWord (s.cpu.getStk qq) u t ∧ exec (.pushQq qq) s = .next t := by
  obtain ⟨u, hu⟩ := tick_ticks hq
  have hd := hu.device
  obtain ⟨t, ht⟩ := push16_pushes (s := u) (s.cpu.getStk qq) (hd.quiet.trans hq) (by rw [hd.cpu, hd.storable]; exact ha)
    (by rw [hd.cpu, hd.storable]; exact hb)
  refine ⟨u, t, hu, ht, ?_⟩
  show finish ((internalTick s).andThen _) = _
  rw [internalTick, hu.run, Res.ok_andThen, hd.cpu, ht.run]
  rfl

/-- `POP` where the stack has been popped. -/
theorem exec_popQq {s u : State} {v : Word} (qq : Reg16Stk) (h : PopsWord s v u) :
    exec (.popQq qq) s = .next (u.withCpu (u.cpu.setStk qq v)) := by
  show finish ((pop16 s).andThen _) = _
  rw [h.run]
  rfl

/-- Settles O17: `exec_pushQq`, `exec_popQq`, and the two stores of `memWrite16`. -/
theorem stackTransfers : Obligations.StackTransfers := by
  refine ⟨fun s qq hq ha hb => exec_pushQq qq hq ha hb, fun s qq hq ha hb => ?_, fun s nn hq ha hb => ?_⟩
  · obtain ⟨v, u, h⟩ := pop16_pops hq ha hb
    obtain ⟨hsp, hpc, hime, hhalted⟩ := Cpu.setStk_control u.cpu qq v
    rw [h.cpu] at hsp hpc hime hhalted
    refine ⟨v, u, _, h, exec_popQq qq h, rfl, Cpu.getStk_setStk_same u.cpu qq v, fun q hne => ?_, ?_⟩
    · rw [State.withCpu_cpu, Cpu.getStk_setStk_other u.cpu v hne, h.cpu]
      cases q <;> rfl
    · rw [State.withCpu_cpu, h.cpu]
      exact ⟨hsp, hpc, hime, hhalted⟩
  · obtain ⟨t, h⟩ := memWrite16_stores s.cpu.sp hq ha hb
    refine ⟨t, h, ?_⟩
    show finish (memWrite16 nn s.cpu.sp s) = _
    rw [h.run]
    rfl

/-- A word pushed to two bytes of memory is popped again, whatever the CPU holds but `SP`. -/
theorem pop_after_push {s t : State} {v : Word} {p q : MemPlace} (c : Cpu) (h : PushesWord v s t) (hq : quiet s = true)
    (hp : placeOf s (s.cpu.sp - 1#16) = some p) (hp' : placeOf s (s.cpu.sp - 2#16) = some q) (hne : p ≠ q)
    (hc : c.sp = s.cpu.sp - 2#16) : ∃ u, PopsWord (t.withCpu c) v u := by
  obtain ⟨hmem, hk, _⟩ := h.place p q hp hp'
  have hnext : s.cpu.sp - 2#16 + 1#16 = s.cpu.sp - 1#16 := by bv_omega
  obtain ⟨hsa, hda⟩ := storable_of_place hp
  obtain ⟨hsb, hdb⟩ := storable_of_place hp'
  have hr (a : Word) (ha : storable s a = true) : readable (t.withCpu c) a = true :=
    (readable_congr (s := s) a hk.cart hk.colorMode).trans (readable_of_storable ha)
  have hquiet : quiet (t.withCpu c) = true := by
    rw [← hq]
    simp only [quiet, State.withCpu_colorMode, State.withCpu_colour, hk.colorMode, hk.colour]
  obtain ⟨w, u, hu⟩ := pop16_pops hquiet (by rw [State.withCpu_cpu, hc]; exact hr _ hsb)
    (by rw [State.withCpu_cpu, hc, hnext]; exact hr _ hsa)
  have hlow := hu.low (by rw [State.withCpu_cpu, hc, State.withCpu_colorMode, hk.colorMode]; exact hdb)
  have hhigh := hu.high (by rw [State.withCpu_cpu, hc, hnext, State.withCpu_colorMode, hk.colorMode]; exact hda)
  have hlow' : busRead t (s.cpu.sp - 2#16) = .byte (lowByte v) := by
    rw [hmem _ hdb, hp']
    simp
  have hhigh' : busRead t (s.cpu.sp - 1#16) = .byte (highByte v) := by
    rw [hmem _ hda, hp]
    simp [List.lookup, beq_false_of_ne hne]
  have hl : lowByte v = lowByte w := by
    rw [State.withCpu_cpu, hc] at hlow
    exact ReadResult.byte.inj (hlow'.symm.trans hlow)
  have hh : highByte v = highByte w := by
    rw [State.withCpu_cpu, hc, hnext] at hhigh
    exact ReadResult.byte.inj (hhigh'.symm.trans hhigh)
  have hw : w = v := by rw [← joinBytes_high_low w, ← hl, ← hh, joinBytes_high_low]
  exact ⟨u, hw ▸ hu⟩

/-- Settles O18: the pair popped is the one pushed, and `SP` falls and rises by 2. -/
theorem pushThenPop : Obligations.PushThenPop := by
  intro s qq p q hq hp hp' hne
  obtain ⟨u, t, hu, ht, hrun⟩ := exec_pushQq qq hq (storable_of_place hp).1 (storable_of_place hp').1
  have hd := hu.device
  have hcpu : u.cpu = s.cpu := hd.cpu
  obtain ⟨w, hw⟩ := pop_after_push t.cpu ht (hd.quiet.trans hq) (by rw [hcpu, hd.placeOf]; exact hp)
    (by rw [hcpu, hd.placeOf]; exact hp') hne (by rw [ht.cpu])
  have hsp : w.cpu = s.cpu := by
    rw [hw.cpu, State.withCpu_cpu, ht.cpu, hcpu]
    simp
  refine ⟨t, _, hrun, exec_popQq qq hw, ?_⟩
  rw [State.withCpu_cpu, hsp, Cpu.setStk_getStk]

/-- Settles O37: the word popped is the `PC` that was pushed. -/
theorem callThenReturn : Obligations.CallThenReturn := by
  intro s nn p q hq hp hp' hne
  obtain ⟨u, t, hu, ht, _⟩ := callTo_calls nn hq (storable_of_place hp).1 (storable_of_place hp').1
  have hd := hu.device
  have hcpu : u.cpu = s.cpu := hd.cpu
  obtain ⟨w, hw⟩ := pop_after_push { t.cpu with pc := nn } ht (hd.quiet.trans hq) (by rw [hcpu, hd.placeOf]; exact hp)
    (by rw [hcpu, hd.placeOf]; exact hp') hne (by rw [ht.cpu])
  have hquiet : quiet (w.setPc s.cpu.pc) = true := by
    obtain ⟨_, hk, _⟩ := ht.place p q (by rw [hcpu, hd.placeOf]; exact hp) (by rw [hcpu, hd.placeOf]; exact hp')
    have hkw := hk.trans hw.specials.ofWithCpu
    show quiet w = true
    rw [quiet, hkw.colorMode, hkw.colour, ← quiet, hd.quiet, hq]
  obtain ⟨x, hx⟩ := tick_ticks hquiet
  refine ⟨t.setPc nn, x, callTo_target hu ht nn, rfl, ?_, ?_⟩
  · show finish (returnFromCall (t.setPc nn)) = _
    rw [returnFromCall, show pop16 (t.setPc nn) = _ from hw.run, Res.ok_andThen]
    exact finish_tick hx
  · rw [hx.device.cpu, State.setPc_cpu, hw.cpu, State.withCpu_cpu, ht.cpu, hcpu]
    simp

end Sys2Proof.Machine

/-!
SUPPORT. The step as a whole: the dispatch of an interrupt, and the fetch of an instruction from bytes that no clock moves.
-/

namespace Sys2Proof.Machine

/-! ### The dispatch -/

/-- A push that can be stored arms no paced VRAM DMA. -/
theorem push16_quiet {s u : State} {v : Word} (hq : quiet s = true) (ha : storable s (s.cpu.sp - 1#16) = true)
    (hb : storable s (s.cpu.sp - 2#16) = true) (h : push16 v s = .ok () u) : quiet u = true := by
  have e : s.cpu.sp - 2#16 = s.cpu.sp - 1#16 - 1#16 := by bv_omega
  obtain ⟨m, hm⟩ := memWrite_storedTick (s := s.setSp (s.cpu.sp - 1#16)) (a := s.cpu.sp - 1#16) (highByte v) hq ha
  have hsp : m.cpu.sp = s.cpu.sp - 1#16 := by rw [hm.stored.cpu]; rfl
  have hqm : quiet (m.setSp (m.cpu.sp - 1#16)) = true := hm.stored.quiet.trans hq
  obtain ⟨w, hw⟩ := memWrite_storedTick (s := m.setSp (m.cpu.sp - 1#16)) (a := m.cpu.sp - 1#16) (lowByte v) hqm
    (by rw [hsp]; exact hm.stored.storable_next (b := s.cpu.sp - 1#16 - 1#16) (.inr rfl) (e ▸ hb))
  have hrun : push16 v s = .ok () w := by simp [push16, pushByte, hm.run, hw.run]
  rw [hrun] at h
  cases h
  exact hw.stored.quiet.trans hqm

theorem lowestSetBit_eq : ∀ {p : BitVec 5} {i : Fin 5}, p.getLsbD i.val = true → (∀ j : Nat, j < i.val → p.getLsbD j = false) →
    lowestSetBit p = some i := by
  decide

/-- An interrupt is pending where it is enabled and requested. -/
theorem pendingInterrupts_getLsbD (s : State) {j : Nat} (hj : j < 5) :
    (pendingInterrupts s).getLsbD j = (s.irq.ie.getLsbD j && s.irq.iflag.getLsbD j) := by
  simp [pendingInterrupts, hj]

theorem interruptVector_eq (i : Fin 5) : interruptVector i = 0x0040#16 + BitVec.ofNat 16 (8 * i.val) := by
  rw [interruptVector, BitVec.ofNat_add]

/-- Settles O10: the plan of the step is `takeInterrupt` of the lowest source. -/
theorem interruptDispatch : Obligations.InterruptDispatch := by
  intro s i hf hqueue hagain hime hq ⟨hie, hif⟩ hlow ha hb
  have hpending : lowestSetBit (pendingInterrupts s) = some i := by
    refine lowestSetBit_eq ?_ fun j hj => ?_
    · rw [pendingInterrupts_getLsbD s i.isLt, hie, hif]
      rfl
    · rw [pendingInterrupts_getLsbD s (hj.trans i.isLt), hlow j hj]
  obtain ⟨a, b, c, h1, h2, hc, hrun⟩ := takeInterrupt_takes (s := s.setHalted false) i hq ha hb
  have hd := h1.device.trans h2.device
  have hquiet : quiet c = true := push16_quiet (s := b) (hd.quiet.trans hq) (by rw [hd.cpu, hd.storable]; exact ha)
    (by rw [hd.cpu, hd.storable]; exact hb) hc.run
  obtain ⟨t, ht⟩ := tick_ticks (s := (clearInterrupt i (c.setIme false)).setPc (interruptVector i)) hquiet
  have hplan : stepPlan (hostMoves s) = .over t := by
    rw [hostMoves_of_queue_nil hqueue, stepPlan, hpending]
    show (if s.cpu.ime = true then planEnd (takeInterrupt i (s.setHalted false)) else planFetch (s.setHalted false)) = .over t
    rw [if_pos hime, hrun, ht.run]
    rfl
  have hcpu : t.cpu = { s.cpu with halted := false, ime := false, sp := s.cpu.sp - 2#16, pc := interruptVector i } := by
    rw [ht.device.cpu]
    show { c.cpu with ime := false, pc := interruptVector i } = _
    rw [hc.cpu, hd.cpu]
    rfl
  rw [interruptVector_eq, clearInterrupt, ← BitVec.twoPow_eq] at ht
  rw [interruptVector_eq] at hcpu
  exact ⟨a, b, c, t, h1, h2, hc, ht, hcpu, step_over hf hagain hplan⟩

/-! ### The fetch -/

/-- One round more, at the end. -/
theorem repeatRes_succ_last (f : State → Res Unit) (n : Nat) (s : State) :
    repeatRes f (n + 1) s = (repeatRes f n s).andThen fun _ t => f t := by
  induction n generalizing s with
  | zero => cases h : f s <;> simp [repeatRes, h]
  | succ n ih =>
    rw [repeatRes]
    cases h : f s with
    | raised t => simp [repeatRes, h]
    | ok _ t =>
      rw [Res.ok_andThen, ih t]
      simp [repeatRes, h]

/-- The byte `k` behind `PC` is fetched where it is no device's register: after `k` ticks, one more. -/
theorem fetch8_behind {s u : State} {k : Nat} {b : Byte} (hq : quiet s = true) (hu : ticks k s = .ok () u) (hd : DeviceOnly s u)
    (hdev : deviceRegister s.colorMode (s.cpu.pc + BitVec.ofNat 16 k) = false)
    (hr : busRead s (s.cpu.pc + BitVec.ofNat 16 k) = .byte b) :
    ∃ w, ticks (k + 1) s = .ok () w ∧ DeviceOnly s w ∧
      fetch8 (u.setPc (s.cpu.pc + BitVec.ofNat 16 k)) = .ok b (w.setPc (s.cpu.pc + BitVec.ofNat 16 (k + 1))) := by
  obtain ⟨w, hw, hdw⟩ := tick_quiet (hd.quiet.trans hq)
  have hsw := hd.trans hdw
  have shown {x : State} (hx : DeviceOnly s x) : busReadOp (s.cpu.pc + BitVec.ofNat 16 k) (x.setPc (s.cpu.pc + BitVec.ofNat 16 k)) =
      .ok b (x.setPc (s.cpu.pc + BitVec.ofNat 16 k)) := by
    have hb : busRead (x.setPc (s.cpu.pc + BitVec.ofNat 16 k)) (s.cpu.pc + BitVec.ofNat 16 k) = .byte b := (hx.memory _ hdev).trans hr
    rw [busReadOp, hb]
  refine ⟨w, ?_, hsw, ?_⟩
  · rw [ticks, repeatRes_succ_last, ← ticks, hu]
    exact hw
  · have htick : tick (u.setPc (s.cpu.pc + BitVec.ofNat 16 k)) = .ok () (w.setPc (s.cpu.pc + BitVec.ofNat 16 k)) := by
      rw [State.setPc, State.setPc, hdw.cpu]
      exact tick_withCpu (hd.quiet.trans hq) hw _
    have hread : memRead (s.cpu.pc + BitVec.ofNat 16 k) (u.setPc (s.cpu.pc + BitVec.ofNat 16 k)) =
        .ok b (w.setPc (s.cpu.pc + BitVec.ofNat 16 k)) := by
      unfold memRead
      split
      · rw [htick, Res.ok_andThen, shown hsw]
      · rw [shown hd, Res.ok_andThen, htick, Res.ok_andThen]
    refine fetch8_eq.mpr ⟨_, hread, ?_⟩
    rw [BitVec.ofNat_add, ← BitVec.add_assoc]
    rfl

/-- The bytes of an instruction at `PC`, none of them a device's register. -/
def CodeAt (s : State) (bytes : List Byte) (n : Nat) : Prop :=
  ∀ (k : Nat) (b : Byte), k < n → bytes[k]? = some b →
    deviceRegister s.colorMode (s.cpu.pc + BitVec.ofNat 16 k) = false ∧ busRead s (s.cpu.pc + BitVec.ofNat 16 k) = .byte b

/-- The instruction that the bytes at `PC` decode to is fetched with one tick for each of its bytes. -/
theorem fetchInstr_code {s : State} {op : Byte} {tail rest : List Byte} {i : Instr} (hq : quiet s = true)
    (h : decode (op :: tail) = .instr i rest) (hcode : CodeAt s (op :: tail) (opLength op)) :
    ∃ u, ticks (opLength op) s = .ok () u ∧ DeviceOnly s u ∧
      fetchInstr s = .ok i (u.setPc (s.cpu.pc + BitVec.ofNat 16 (opLength op))) := by
  have hpos : 0 < opLength op := by rcases opLength_cases op with hl | hl | hl <;> omega
  have hstart : s.setPc (s.cpu.pc + BitVec.ofNat 16 0) = s := by simp [State.setPc, State.withCpu]
  obtain ⟨hdev0, hr0⟩ := hcode 0 op hpos rfl
  obtain ⟨u, hu, hdu, hfu⟩ := fetch8_behind (k := 0) hq rfl (.refl s) hdev0 hr0
  rw [hstart] at hfu
  obtain ⟨hlen, rfl, rfl⟩ | ⟨hlen, lo, rfl, rfl⟩ | ⟨hlen, lo, hi, rfl, rfl⟩ := decode_cases h
  · exact ⟨u, hlen ▸ hu, hdu, by rw [fetchInstr, hfu, hlen]; exact fetchOperands_one hlen _⟩
  · obtain ⟨hdev1, hr1⟩ := hcode 1 lo (by omega) rfl
    obtain ⟨w, hw, hdw, hfw⟩ := fetch8_behind hq hu hdu hdev1 hr1
    exact ⟨w, hlen ▸ hw, hdw, by rw [fetchInstr, hfu, Res.ok_andThen, fetchOperands_two hlen, hfw, hlen]; rfl⟩
  · obtain ⟨hdev1, hr1⟩ := hcode 1 lo (by omega) rfl
    obtain ⟨w, hw, hdw, hfw⟩ := fetch8_behind hq hu hdu hdev1 hr1
    obtain ⟨hdev2, hr2⟩ := hcode 2 hi (by omega) rfl
    obtain ⟨x, hx, hdx, hfx⟩ := fetch8_behind hq hw hdw hdev2 hr2
    exact ⟨x, hlen ▸ hx, hdx, by
      rw [fetchInstr, hfu, Res.ok_andThen, fetchOperands_three hlen, hfw, Res.ok_andThen, hfx, hlen]; rfl⟩

/-- With no interrupt to take, a machine that is not halted fetches (R400). -/
theorem stepPlan_fetch {s : State} (hh : s.cpu.halted = false) (hp : pendingInterrupts s = 0#5 ∨ s.cpu.ime = false) :
    stepPlan s = planFetch s := by
  by_cases h0 : pendingInterrupts s = 0#5
  · exact stepPlan_noInterrupt h0
  · have hime := hp.resolve_left h0
    obtain ⟨i, hi⟩ := exists_lowestSetBit h0
    have hsame : s.setHalted false = s := by rw [← hh]; rfl
    rw [stepPlan, hi]
    show (if (s.setHalted false).cpu.ime = true then planEnd (takeInterrupt i (s.setHalted false)) else planFetch (s.setHalted false)) =
      planFetch s
    rw [hsame, hime]
    rfl

/-- Settles O6: the plan of the step is the fetch (`stepPlan_fetch`), which is of the decoded instruction (`fetchInstr_code`). -/
theorem stepRunsDecodedInstruction : Obligations.StepRunsDecodedInstruction := by
  intro s op tail i rest hf hagain hh hp hq hdec hcode
  obtain ⟨u, hu, hd, hfetch⟩ := fetchInstr_code hq hdec hcode
  refine ⟨u, hu, hd, step_run hf hagain ?_⟩
  rw [stepPlan_fetch hh hp, planFetch, hh, hfetch]
  rfl

/-- Settles O48: each invariant and each value is read off `State.reset`, which power-up of a blank image gives. -/
theorem resetState : Obligations.ResetState := ⟨by decide, by decide, rfl⟩

end Sys2Proof.Machine

/-!
SUPPORT. The small devices tick by tick, the header of an image at power-up, and what one pixel writes.
-/

namespace Sys2Proof.Machine

/-! ### Timer -/

theorem timaPeriod_eq (cfg : Config) (tac : BitVec 3) :
    timaPeriod cfg (tac.extractLsb' 0 2) =
      [cfg.timaPeriod0, cfg.timaPeriod1, cfg.timaPeriod2, cfg.timaPeriod3].getD (tac.toNat % 4) 0 := by
  have hsel : (tac.extractLsb' 0 2).toNat = tac.toNat % 4 := by simp
  unfold timaPeriod
  rw [hsel]
  have hlt : tac.toNat % 4 < 4 := Nat.mod_lt _ (by decide)
  generalize tac.toNat % 4 = n at hlt
  interval_cases n <;> rfl

theorem dividerTick_eq (s : State) :
    dividerTick s = { s with timer := { s.timer with
      divCnt := if s.timer.divCnt + 1 ≥ s.cfg.divPeriodTicks then 0 else s.timer.divCnt + 1,
      div := if s.timer.divCnt + 1 ≥ s.cfg.divPeriodTicks then s.timer.div + 1#8 else s.timer.div } } := by
  unfold dividerTick
  dsimp only
  split <;> rfl

/-- Whether the counter half of a timer tick increments `TIMA`. -/
def timaDue (s : State) : Bool :=
  s.timer.tac.getLsbD 2 && decide (s.timer.tCnt + 1 ≥ timaPeriod s.cfg (s.timer.tac.extractLsb' 0 2))

theorem counterTick_eq (s : State) :
    counterTick s = { s with
      timer := { s.timer with
        tCnt := if s.timer.tac.getLsbD 2 = false then s.timer.tCnt else if timaDue s then 0 else s.timer.tCnt + 1,
        tima := if timaDue s = false then s.timer.tima else if s.timer.tima = 0xFF#8 then s.timer.tma else s.timer.tima + 1#8 },
      irq := if timaDue s = true ∧ s.timer.tima = 0xFF#8 then { s.irq with iflag := s.irq.iflag ||| 0b00100#5 } else s.irq } := by
  unfold counterTick timaDue
  cases s.timer.tac.getLsbD 2 with
  | false => simp
  | true =>
    by_cases hdue : s.timer.tCnt + 1 ≥ timaPeriod s.cfg (s.timer.tac.extractLsb' 0 2)
    · by_cases hff : s.timer.tima = 0xFF#8 <;> simp [timaIncrement, requestInterrupt, hdue, hff]
    · simp [hdue]

end Sys2Proof.Machine

namespace Sys2Proof
open Sys2Proof.Machine

/-- Settles O50: the divider's half leaves the counter's alone. -/
theorem timerTick : Obligations.TimerTick := by
  intro s
  have hdue : timaDue (dividerTick s) = (s.timer.tac.getLsbD 2 &&
      decide (s.timer.tCnt + 1 ≥
        [s.cfg.timaPeriod0, s.cfg.timaPeriod1, s.cfg.timaPeriod2, s.cfg.timaPeriod3].getD (s.timer.tac.toNat % 4) 0)) := by
    rw [dividerTick_eq, timaDue, timaPeriod_eq]
  have h : Machine.timerTick s = counterTick (dividerTick s) := rfl
  rw [counterTick_eq, hdue, dividerTick_eq] at h
  rw [h]
  exact ⟨rfl, rfl, ⟨rfl, rfl, rfl⟩, rfl⟩

end Sys2Proof

namespace Sys2Proof.Machine

/-! ### Serial -/

theorem serialTick_serial (s : State) : (serialTick s).serial = { s.serial with cnt := s.serial.cnt - 1 } := by
  unfold serialTick
  split
  next h => rw [h]; exact congrArg (fun n => { s.serial with cnt := n }) h
  next n h => rw [h]; dsimp only; split <;> rfl

/-- A serial tick requests the interrupt where it ends the countdown (R453). -/
theorem serialTick_request (s : State) :
    (serialTick s).irq.iflag.getLsbD 3 = (s.irq.iflag.getLsbD 3 || decide (s.serial.cnt = 1)) := by
  unfold serialTick
  split
  next h => simp [h]
  next n h =>
    dsimp only
    split
    next h0 => simp [requestInterrupt, h, h0]
    next h0 => simp [h, h0]

/-- The countdown after `n` ticks from a state with no request. -/
theorem serial_countdown (s : State) (n : Nat) (hreq : s.irq.iflag.getLsbD 3 = false) (hcnt : 0 < s.serial.cnt) :
    (Nat.repeat serialTick n s).serial = { s.serial with cnt := s.serial.cnt - n } ∧
      (Nat.repeat serialTick n s).irq.iflag.getLsbD 3 = decide (s.serial.cnt ≤ n) := by
  induction n with
  | zero => exact ⟨rfl, by rw [Nat.repeat, hreq]; simp; omega⟩
  | succ n ih =>
    obtain ⟨hserial, hflag⟩ := ih
    refine ⟨?_, ?_⟩
    · rw [Nat.repeat, serialTick_serial, hserial, Nat.sub_sub]
    · rw [Nat.repeat, serialTick_request, hflag, hserial, ← Bool.decide_or, decide_eq_decide]
      dsimp only
      omega

theorem busOwner_sc (colour : Bool) : busOwner colour 0xFF02#16 = .io .sc := by
  cases colour <;> decide

/-- Settles O51: the write of 0x81 sets the countdown of `serial_countdown`. -/
theorem serialCountdown : Obligations.SerialCountdown := by
  refine ⟨fun s n hreq hdelay => ?_, fun s v hv => ?_⟩
  · obtain ⟨hserial, hflag⟩ := serial_countdown (writeSc 0x81#8 s) n hreq hdelay
    exact ⟨hflag, by rw [hserial]; rfl, by rw [hserial]; rfl⟩
  · rw [busWrite, busOwner_sc]
    show Res.ok () (writeSc v s) = _
    rw [writeSc, if_neg hv]

/-! ### Joypad -/

/-- Some bit goes from 1 to 0. -/
theorem falling_any : ∀ a b : BitVec 4, ((List.range 4).any fun k => a.getLsbD k && !b.getLsbD k) = !decide (a &&& ~~~b = 0#4) := by
  decide

theorem requestInterrupt_getLsbD (i : Fin 5) (s : State) (k : Nat) :
    (requestInterrupt i s).irq.iflag.getLsbD k = (s.irq.iflag.getLsbD k || decide (k = i.val)) := by
  have hi := i.isLt
  rw [requestInterrupt, BitVec.getLsbD_or, ← BitVec.twoPow_eq, BitVec.getLsbD_twoPow]
  grind

/-- A snapshot changes no enable and no request but that of interrupt 4. -/
theorem hostSetButtons_irq (b : Buttons) (s : State) :
    (hostSetButtons b s).irq = s.irq ∨ (hostSetButtons b s).irq = (requestInterrupt 4 s).irq := by
  unfold hostSetButtons
  cases s.cfg.joypadIrq <;> dsimp only
  · split
    · exact .inr rfl
    · exact .inl rfl
  · exact .inl rfl
  · split
    · exact .inl rfl
    · exact .inr rfl

/-- Settles O53: `hostSetButtons_eq` and `hostSetButtons_irq`, and under `onPress` the falling bits. -/
theorem buttonSnapshot : Obligations.ButtonSnapshot := by
  refine fun s b => ⟨by rw [hostSetButtons_eq], hostSetButtons_eq b s, ?_, fun k hk => ?_, fun hc => ?_, fun hc => ?_⟩
  · rcases hostSetButtons_irq b s with h | h <;> rw [h]
    rfl
  · rcases hostSetButtons_irq b s with h | h <;> rw [h]
    have hother : decide (k = (4 : Fin 5).val) = false := decide_eq_false hk
    rw [requestInterrupt_getLsbD, hother, Bool.or_false]
  · rw [hostSetButtons, hc]
  · rw [falling_any, hostSetButtons, hc]
    dsimp only
    split
    next h => simp [h]
    next h => simp [h]

/-! ### Power-up -/

theorem mapperOfByte_none : ∀ t : Byte, t.toNat ∉ [0x00, 0x01, 0x02, 0x03, 0x10, 0x13, 0x1B] → mapperOfByte t = none := by decide

/-- A configuration fault is held by the machine that power-up answers (R561). -/
theorem powerUp_error {rom : Image} {cfg : Config} {f : Fault} (h : readHeader rom cfg = .error f) (resets : Bool → ResetColumn)
    (init : InitialMemory) : ∃ s, powerUp rom none resets init cfg = .next s ∧ s.fault = some f := by
  rw [powerUp, h]
  exact ⟨_, rfl, rfl⟩

theorem powerUp_ok {rom : Image} {cfg : Config} {info : HeaderInfo} (h : readHeader rom cfg = .ok info) (resets : Bool → ResetColumn)
    (init : InitialMemory) :
    powerUp rom none resets init cfg =
      .next (assembleState (resets (imageColorMode rom)) init cfg (imageColorMode rom)
        (cartAtPowerUp rom.size info) rom.cells [] none) := by
  rw [powerUp, h]

/-- The header of an image that has its three bytes (R131, R132, R133, R561). -/
theorem readHeader_eq {rom : Image} {t k c : Byte} (ht : imageByte rom 0x147 = some t) (hk : imageByte rom 0x148 = some k)
    (hc : imageByte rom 0x149 = some c) (cfg : Config) :
    readHeader rom cfg =
      match mapperOfByte t, cfg.romBanks[k.toNat]?, cfg.ramSizeBytes[c.toNat]? with
      | none, _, _ => .error (.unsupportedMapper t)
      | some _, none, _ => .error (.badRomImage k.toNat)
      | some _, some _, none => .error (.badRomImage c.toNat)
      | some kind, some banks, some ram =>
        if rom.size < 0x150 ∨ rom.size < 16384 * banks then .error (.badRomImage k.toNat)
        else .ok { kind := kind, romBanks := banks, ramSize := ram } := by
  unfold readHeader romBanksOfByte ramSizeOfByte
  simp only [ht, hk, hc]
  cases mapperOfByte t <;> cases cfg.romBanks[k.toNat]? <;> cases cfg.ramSizeBytes[c.toNat]? <;> rfl

/-- Settles O49: each clause is one row of `readHeader_eq`. -/
theorem powerUpFromHeader : Obligations.PowerUpFromHeader := by
  refine ⟨fun rom resets init cfg t k c ht hk hc => ⟨fun kind banks ram hkind hbanks hram hlen hsize => ?_, fun hbad => ?_,
    fun hkind hbad => ?_, fun hkind hbanks hbad => ?_, fun banks hkind hbanks hram hshort => ?_⟩, fun rom resets init cfg hlen => ?_,
    fun k => ?_, rfl⟩
  · have h : readHeader rom cfg = .ok ⟨kind, banks, ram⟩ := by
      rw [readHeader_eq ht hk hc, hkind, hbanks, hram]
      exact if_neg (by omega)
    exact ⟨_, powerUp_ok h resets init, rfl, rfl, rfl, rfl, rfl, rfl, rfl, rfl⟩
  · refine powerUp_error ?_ resets init
    rw [readHeader_eq ht hk hc, mapperOfByte_none t hbad]
  · obtain ⟨kind, hkind⟩ := Option.ne_none_iff_exists'.mp hkind
    refine powerUp_error ?_ resets init
    rw [readHeader_eq ht hk hc, hkind, Vector.getElem?_eq_none (by omega)]
  · obtain ⟨kind, hkind⟩ := Option.ne_none_iff_exists'.mp hkind
    refine powerUp_error ?_ resets init
    rw [readHeader_eq ht hk hc, hkind, Vector.getElem?_eq_getElem (by omega), Vector.getElem?_eq_none (by omega)]
  · obtain ⟨kind, hkind⟩ := Option.ne_none_iff_exists'.mp hkind
    refine powerUp_error ?_ resets init
    rw [readHeader_eq ht hk hc, hkind, hbanks, Vector.getElem?_eq_getElem (by omega)]
    exact if_pos hshort
  · refine powerUp_error ?_ resets init
    rw [readHeader, imageByte, if_neg (by omega)]
  · by_cases hk : k ≤ 6
    · interval_cases k <;> rfl
    · rw [if_neg hk, Vector.getElem?_eq_none (by omega)]

/-! ### A pixel -/

theorem laneFetch_fb (x y : Nat) (s : State) : (laneFetch x y s).fb = s.fb := by
  unfold laneFetch refetchRow fetchRow windowSwitch
  repeat' split
  all_goals rfl

/-- A pixel is one write of the frame buffer (R500). -/
theorem emitPixel_fb (s : State) :
    (emitPixel s).fb = cellsSet unlistedPixel s.fb (160 * s.ppu.ly.toNat + s.ppu.lx)
      (resolvePixel (laneFetch s.ppu.lx s.ppu.ly.toNat s)
        (mixLanes (laneFetch s.ppu.lx s.ppu.ly.toNat s) (laneIndex (laneFetch s.ppu.lx s.ppu.ly.toNat s))
          (laneFetch s.ppu.lx s.ppu.ly.toNat s).ppu.bgAttr
          (spriteLane (laneFetch s.ppu.lx s.ppu.ly.toNat s) s.ppu.lx s.ppu.ly.toNat))) := by
  rw [emitPixel, laneFetch_fb]

/-- The sprite lane depends on memory, `LCDC` and the colour mode only. -/
theorem spriteLane_device {s u : State} (h : DeviceOnly s u) (x y : Nat) : spriteLane u x y = spriteLane s x y := by
  have hu : spriteLane u x y =
      spriteLane { s with ppu := { s.ppu with lcdc := u.ppu.lcdc }, mem := u.mem, colorMode := u.colorMode } x y := rfl
  rw [hu, h.mem, h.specials.colorMode, h.specials.ppuControl.1]

/-- What an entry shows is never index 0. -/
theorem spritePixel_ne_zero {s : State} {x y n : Nat} {k : BitVec 2} {attr : Byte} (h : spritePixel s x y n = some (k, attr)) :
    k ≠ 0#2 := by
  unfold spritePixel at h
  simp only [Option.ite_none_right_eq_some, Option.ite_none_left_eq_some, Option.some.injEq, Prod.mk.injEq] at h
  obtain ⟨_, hne, hk, _⟩ := h
  exact hk ▸ hne

/-- A search of the first numbers finds the first of them that answers. -/
theorem findSome?_range {α : Type} {f : Nat → Option α} {n : Nat} {b : α} (h : (List.range n).findSome? f = some b) :
    ∃ k, k < n ∧ f k = some b ∧ ∀ m, m < k → f m = none := by
  obtain ⟨before, k, after, hsplit, hk, hnone⟩ := List.findSome?_eq_some_iff.mp h
  have hat (m : Nat) (hm : m < n) : (before ++ k :: after)[m]? = some m := by rw [← hsplit, List.getElem?_range hm]
  have hlt : before.length < n := by
    have hlen := congrArg List.length hsplit
    simp at hlen
    omega
  have hkat : k = before.length := by simpa using hat before.length hlt
  refine ⟨k, hkat ▸ hlt, hk, fun m hm => hnone m ?_⟩
  have hmat := hat m (by omega)
  rw [List.getElem?_append_left (by omega)] at hmat
  exact List.mem_of_getElem? hmat

/-- Settles O56: one cell is written (`emitPixel_fb`), and the sprite lane is a search from the first entry. -/
theorem pixelOutput : Obligations.PixelOutput := by
  refine fun s => ⟨fun k hk => ?_, fun hmode hlcdc hsprite => ?_, fun x y k attr h => ?_⟩
  · rw [emitPixel_fb]
    exact cellsGet_set_other _ _ _ _ _ hk
  · have hd := laneFetch_device s.ppu.lx s.ppu.ly.toNat s
    rw [emitPixel_fb, cellsGet_set_same, spriteLane_device hd, hsprite]
    have hl : lcdcBit (laneFetch s.ppu.lx s.ppu.ly.toNat s) 0 = false := by rw [lcdcBit, hd.specials.ppuControl.1, hlcdc]
    simp [mixLanes, resolvePixel, hd.specials.colorMode, hmode, hl]
  · unfold spriteLane at h
    split at h
    next hon =>
      obtain ⟨n, hn, hsome, hfirst⟩ := findSome?_range h
      exact ⟨spritePixel_ne_zero hsome, hon, n, hn, hsome, hfirst⟩
    next => cases h

end Sys2Proof.Machine

/-!
SUPPORT. The two transfers: the OAM DMA byte by byte, and the VRAM DMA block by block, as what has been copied so far.
-/

namespace Sys2Proof.Machine

/-! ### Addresses -/

theorem busOwner_oam {colour : Bool} {a : Word} {off : Nat} (h : busOwner colour a = .oam off) : a.toNat = 0xFE00 + off := by
  unfold busOwner at h
  dsimp only at h
  repeat' split at h
  all_goals simp at h
  omega

theorem busOwner_vram {colour : Bool} {a : Word} {off : Nat} (h : busOwner colour a = .vram off) :
    0x8000 ≤ a.toNat ∧ a.toNat < 0xA000 := by
  unfold busOwner at h
  dsimp only at h
  repeat' split at h
  all_goals simp at h
  omega

/-- The addresses from 0xE000 to 0xFDFF have no owner (R80). -/
theorem busOwner_nobody {colour : Bool} {a : Word} (hlo : 0xE000 ≤ a.toNat) (hhi : a.toNat < 0xFE00) : busOwner colour a = .nobody := by
  unfold busOwner
  dsimp only
  rw [if_neg (by omega), if_neg (by omega), if_neg (by omega), if_neg (by omega), if_neg (by omega), if_pos hhi]

theorem busRead_nobody {s : State} {a : Word} (hlo : 0xE000 ≤ a.toNat) (hhi : a.toNat < 0xFE00) :
    busRead s a = .fault (.unmappedAccess a .read) := by
  rw [busRead, busOwner_nobody hlo hhi]

theorem busRead_setOam {s : State} {a : Word} {i : Nat} (b : Byte) (h : a.toNat ≠ 0xFE00 + i) :
    busRead (setOam i b s) a = busRead s a := by
  unfold busRead
  rw [show (setOam i b s).colorMode = s.colorMode from rfl]
  cases ho : busOwner s.colorMode a with
  | oam off =>
    have hne : off ≠ i := fun e => h (e ▸ busOwner_oam ho)
    exact congrArg ReadResult.byte (byteAt_setByte_other _ _ _ _ hne)
  | _ => rfl

/-- The byte `i` of a page (R110). -/
theorem page_byte (v : Byte) {i : Nat} (hi : i < 256) : v ++ BitVec.ofNat 8 i = joinBytes v 0x00#8 + BitVec.ofNat 16 i := by
  have := v.isLt
  apply BitVec.eq_of_toNat_eq
  rw [show v ++ BitVec.ofNat 8 i = joinBytes v (BitVec.ofNat 8 i) from rfl, BitVec.toNat_add, toNat_joinBytes, toNat_joinBytes]
  simp
  omega

theorem toNat_page_byte (v : Byte) {i : Nat} (hi : i < 256) : (joinBytes v 0x00#8 + BitVec.ofNat 16 i).toNat = 256 * v.toNat + i := by
  have := v.isLt
  rw [BitVec.toNat_add, toNat_joinBytes]
  simp
  omega

/-! ### The OAM DMA -/

/-- The first `i` bytes of page `v` of `s` have been copied to OAM, the devices have moved, and the rest of the page reads as it did. -/
structure OamCopied (v : Byte) (i : Nat) (s t : State) : Prop where
  cpu : t.cpu = s.cpu
  mem : t.mem = { s.mem with oam := t.mem.oam }
  specials : SpecialsKept s t
  copied : ∀ j, j < i → busRead s (joinBytes v 0x00#8 + BitVec.ofNat 16 j) = .byte (byteAt t.mem.oam j)
  ahead : ∀ j, i ≤ j → j < 160 →
    busRead t (joinBytes v 0x00#8 + BitVec.ofNat 16 j) = busRead s (joinBytes v 0x00#8 + BitVec.ofNat 16 j)

/-- No byte of page `v` that an OAM DMA copies is a device's register. -/
def PlainPage (v : Byte) (s : State) : Prop :=
  ∀ j, j < 160 → deviceRegister s.colorMode (joinBytes v 0x00#8 + BitVec.ofNat 16 j) = false

theorem OamCopied.device {v : Byte} {i : Nat} {s t u : State} (h : OamCopied v i s t) (hpage : PlainPage v s) (hd : DeviceOnly t u) :
    OamCopied v i s u where
  cpu := hd.cpu.trans h.cpu
  mem := by rw [hd.mem]; exact h.mem
  specials := h.specials.trans hd.specials
  copied := fun j hj => by rw [hd.mem]; exact h.copied j hj
  ahead := fun j hij hj => (hd.memory _ (by rw [h.specials.colorMode]; exact hpage j hj)).trans (h.ahead j hij hj)

/-- One byte stored: where the page is OAM's own, it is stored where it was read. -/
theorem OamCopied.store {v : Byte} {i : Nat} {s t : State} {b : Byte} (h : OamCopied v i s t)
    (hb : busRead s (joinBytes v 0x00#8 + BitVec.ofNat 16 i) = .byte b) : OamCopied v (i + 1) s (setOam i b t) where
  cpu := h.cpu
  mem := by
    show { t.mem with oam := setByte t.mem.oam i b } = { s.mem with oam := setByte t.mem.oam i b }
    rw [h.mem]
  specials := by
    obtain ⟨_, _, hkept, _⟩ := putByte_kept (.oam i) b t
    exact h.specials.trans hkept
  copied := fun j hj => by
    show _ = ReadResult.byte (byteAt (setByte t.mem.oam i b) j)
    by_cases hji : j = i
    · rw [hji, hb, byteAt_setByte_same]
    · rw [byteAt_setByte_other _ _ _ _ hji]
      exact h.copied j (by omega)
  ahead := fun j hij hj => by
    rw [busRead_setOam b (by rw [toNat_page_byte v (by omega)]; omega)]
    exact h.ahead j (by omega) hj

/-- The copy from byte `i` on. -/
theorem oamDmaBytes_copies {v : Byte} {s : State} (hq : quiet s = true) (hpage : PlainPage v s)
    (hread : ∀ j, j < 160 → readable s (joinBytes v 0x00#8 + BitVec.ofNat 16 j) = true) (k i : Nat) {t : State} (hk : i + k = 160)
    (h : OamCopied v i s t) : ∃ u, oamDmaBytes (joinBytes v 0x00#8) k i t = .ok () u ∧ OamCopied v 160 s u := by
  induction k generalizing i t with
  | zero => exact ⟨t, rfl, by rwa [← hk]⟩
  | succ k ih =>
    have hqt : quiet t = true := by rw [quiet, h.specials.colorMode, h.specials.colour]; exact hq
    obtain ⟨u, hu, hd⟩ := ticks_quiet t.cfg.oamDmaTicksPerByte hqt
    have hcopied := h.device hpage hd
    obtain ⟨b, hb⟩ := readable_byte (hread i (by omega))
    have hbu := (hcopied.ahead i (Nat.le_refl i) (by omega)).trans hb
    obtain ⟨w, hw, hdone⟩ := ih (i + 1) (by omega) (hcopied.store hb)
    refine ⟨w, ?_, hdone⟩
    rw [oamDmaBytes, hu, Res.ok_andThen]
    simp only [hbu]
    exact hw

/-- The state in which the copy of an OAM DMA runs: `DMA` has been written. -/
def dmaWritten (v : Byte) (s : State) : State := { s with ppu := { s.ppu with dma := v } }

theorem busWrite_dma (v : Byte) (s : State) : busWrite 0xFF46#16 v s = oamDmaBytes (joinBytes v 0x00#8) 160 0 (dmaWritten v s) := by
  have ho : busOwner s.colorMode 0xFF46#16 = .io .dma := by cases s.colorMode <;> decide
  rw [busWrite, ho]
  rfl

/-- Settles O57: the copy of `oamDmaBytes_copies` from byte 0, and the first read of a page with no owner. -/
theorem oamDmaCopies : Obligations.OamDmaCopies := by
  refine fun s v hq => ⟨fun hsource => ?_, fun hlo hhi => ?_⟩
  · have hpage : PlainPage v s := fun j hj => page_byte v (i := j) (by omega) ▸ (hsource j hj).1
    have hread (j : Nat) (hj : j < 160) : readable s (joinBytes v 0x00#8 + BitVec.ofNat 16 j) = true :=
      page_byte v (i := j) (by omega) ▸ (hsource j hj).2
    have hstart : OamCopied v 0 (dmaWritten v s) (dmaWritten v s) :=
      ⟨rfl, rfl, .refl _, fun _ h => absurd h (Nat.not_lt_zero _), fun _ _ _ => rfl⟩
    obtain ⟨t, hrun, hdone⟩ := oamDmaBytes_copies (s := dmaWritten v s) hq hpage
      (fun j hj => (readable_congr (s := s) (u := dmaWritten v s) _ rfl rfl).trans (hread j hj)) 160 0 rfl hstart
    refine ⟨t, (busWrite_dma v s).trans hrun, hdone.specials.ppuControl.2.2.2, hdone.cpu, fun i hi => ?_, hdone.mem⟩
    rw [page_byte v (by omega), ← hdone.copied i hi]
    exact (busRead_congr (s := s) (u := dmaWritten v s) (hpage i hi) rfl rfl rfl rfl rfl rfl).symm
  · obtain ⟨u, hu, hd⟩ := ticks_quiet (s := dmaWritten v s) (dmaWritten v s).cfg.oamDmaTicksPerByte hq
    have hfirst : joinBytes v 0x00#8 + BitVec.ofNat 16 0 = v ++ 0x00#8 := (page_byte v (by decide)).symm
    have hnat : (v ++ 0x00#8 : Word).toNat = 256 * v.toNat + 0 := hfirst ▸ toNat_page_byte v (by decide)
    have hfault : busRead u (v ++ 0x00#8) = .fault (.unmappedAccess (v ++ 0x00#8) .read) := busRead_nobody (by omega) (by omega)
    refine ⟨{ u with fault := some (.unmappedAccess (v ++ 0x00#8) .read) }, ?_, rfl, hd.specials.ppuControl.2.2.2, hd.mem⟩
    rw [busWrite_dma, show (160 : Nat) = 159 + 1 from rfl, oamDmaBytes, hu, Res.ok_andThen, hfirst]
    simp only [hfault]
    rfl

end Sys2Proof.Machine

/-!
SUPPORT. The VRAM DMA block by block: what has been copied so far, and where the addresses and the count then stand.
-/

namespace Sys2Proof.Machine

/-! ### What a transfer has copied -/

/-- The cell of VRAM that byte `i` of a transfer goes to (R542). -/
def transferCell (c : Colour) (i : Nat) : Nat := 8192 * c.vbk.toNat + (c.hdmaDst.toNat + i) % 8192

/-- An address that a transfer can read from without fault and outside the memory it writes. -/
def PlainSource (s : State) (a : Word) : Prop :=
  deviceRegister s.colorMode a = false ∧ readable s a = true ∧ (a.toNat < 0x8000 ∨ 0xA000 ≤ a.toNat)

/-- Bytes 0 to `m - 1` of the transfer that `s` has loaded are in VRAM, and nothing else has changed but the running state of the
transfer. -/
structure VramCopied (m : Nat) (s t : State) : Prop where
  frame : t = { s with
    mem := { s.mem with vram := t.mem.vram },
    colour := { s.colour with hdmaSrc := t.colour.hdmaSrc, hdmaDst := t.colour.hdmaDst, hdmaLeft := t.colour.hdmaLeft } }
  copied : ∀ i, i < m → busRead s (s.colour.hdmaSrc + BitVec.ofNat 16 i) = .byte (byteAt t.mem.vram (transferCell s.colour i))
  others : ∀ k, (∀ i, i < m → k ≠ transferCell s.colour i) → byteAt t.mem.vram k = byteAt s.mem.vram k

theorem VramCopied.start (s : State) : VramCopied 0 s s :=
  ⟨rfl, fun _ h => absurd h (Nat.not_lt_zero _), fun _ _ => rfl⟩

/-- An address that shows neither VRAM nor a device's register reads the same whatever VRAM and the VRAM DMA hold. -/
theorem busRead_outsideVram {s : State} {a : Word} (vram : List Host.Cell) (c : Colour) (hsvbk : c.svbk = s.colour.svbk)
    (hdev : deviceRegister s.colorMode a = false) (hout : a.toNat < 0x8000 ∨ 0xA000 ≤ a.toNat) :
    busRead { s with mem := { s.mem with vram := vram }, colour := c } a = busRead s a := by
  unfold deviceRegister at hdev
  unfold busRead
  dsimp only
  cases ho : busOwner s.colorMode a with
  | vram off =>
    have := busOwner_vram ho
    omega
  | io r =>
    rw [ho] at hdev
    cases hdev
  | wramBanked off => simp only [wramBank, hsvbk]
  | _ => rfl

theorem VramCopied.source {m : Nat} {s t : State} (h : VramCopied m s t) {a : Word} (ha : PlainSource s a) : busRead t a = busRead s a := by
  rw [h.frame]
  exact busRead_outsideVram _ _ rfl ha.1 ha.2.2

/-- No two bytes of a transfer go to one cell. -/
theorem transferCell_ne (c : Colour) {i m : Nat} (hi : i < m) (hm : m < 8192) : transferCell c i ≠ transferCell c m := by
  unfold transferCell
  omega

/-- One byte more, stored in its cell. -/
theorem VramCopied.store {m : Nat} {s t : State} {b : Byte} (h : VramCopied m s t) (hm : m < 8192)
    (hb : busRead s (s.colour.hdmaSrc + BitVec.ofNat 16 m) = .byte b) :
    VramCopied (m + 1) s (setVram s.colour.vbk.toNat ((s.colour.hdmaDst.toNat + m) % 8192) b t) where
  frame := by
    rw [h.frame]
    rfl
  copied := fun i hi => by
    show _ = ReadResult.byte (byteAt (setByte t.mem.vram (transferCell s.colour m) b) (transferCell s.colour i))
    by_cases him : i = m
    · rw [him, hb, byteAt_setByte_same]
    · rw [byteAt_setByte_other _ _ _ _ (transferCell_ne s.colour (by omega) hm)]
      exact h.copied i (by omega)
  others := fun k hk => by
    show byteAt (setByte t.mem.vram (transferCell s.colour m) b) k = _
    rw [byteAt_setByte_other _ _ _ _ (hk m (by omega))]
    exact h.others k fun i hi => hk i (by omega)

/-! ### A block -/

/-- The running addresses stand behind the first `m` bytes. -/
structure AtByte (m : Nat) (c d : Colour) : Prop where
  src : d.hdmaSrc = c.hdmaSrc + BitVec.ofNat 16 m
  dst : d.hdmaDst.toNat % 8192 = (c.hdmaDst.toNat + m) % 8192

theorem AtByte.start (c : Colour) : AtByte 0 c c := ⟨by simp, rfl⟩

/-- Bytes `i` to `i + k - 1` of the block that begins at byte `m`. -/
theorem copyBytes_copies {s : State} {m : Nat} (k i : Nat) {t : State} (h : VramCopied (m + i) s t) (hat : AtByte m s.colour t.colour)
    (hsource : ∀ j, j < m + i + k → PlainSource s (s.colour.hdmaSrc + BitVec.ofNat 16 j)) (hlen : m + i + k ≤ 8192) :
    ∃ u, copyBytes k i t = .ok () u ∧ VramCopied (m + i + k) s u ∧ u.colour = t.colour := by
  induction k generalizing i t with
  | zero => exact ⟨t, rfl, h, rfl⟩
  | succ k ih =>
    have hplain := hsource (m + i) (by omega)
    have hsrc : t.colour.hdmaSrc + BitVec.ofNat 16 i = s.colour.hdmaSrc + BitVec.ofNat 16 (m + i) := by
      rw [hat.src, BitVec.ofNat_add, BitVec.add_assoc]
    have hdst : (t.colour.hdmaDst.toNat + i) % 8192 = (s.colour.hdmaDst.toNat + (m + i)) % 8192 := by
      have := hat.dst
      omega
    have hvbk : t.colour.vbk = s.colour.vbk := by rw [h.frame]
    obtain ⟨b, hb⟩ := readable_byte hplain.2.1
    have hread : busRead t (t.colour.hdmaSrc + BitVec.ofNat 16 i) = .byte b := by rw [hsrc, h.source hplain, hb]
    have hstored : VramCopied (m + (i + 1)) s (setVram s.colour.vbk.toNat ((s.colour.hdmaDst.toNat + (m + i)) % 8192) b t) :=
      h.store (by omega) hb
    obtain ⟨u, hu, hcopied, hcolour⟩ := ih (i + 1) hstored hat (fun j hj => hsource j (by omega)) (by omega)
    refine ⟨u, ?_, ?_, hcolour⟩
    · rw [copyBytes]
      simp only [hread, hdst, hvbk]
      exact hu
    · rwa [show m + i + (k + 1) = m + (i + 1) + k by omega]

/-- A block that begins at byte `m`. -/
theorem copyBlock_copies {s : State} {m : Nat} {t : State} (h : VramCopied m s t) (hat : AtByte m s.colour t.colour)
    (hsource : ∀ j, j < m + 16 → PlainSource s (s.colour.hdmaSrc + BitVec.ofNat 16 j)) (hlen : m + 16 ≤ 8192) :
    ∃ u, copyBlock t = .ok () u ∧ VramCopied (m + 16) s u ∧ u.colour = (blockDone t).colour := by
  obtain ⟨u, hu, hcopied, hcolour⟩ := copyBytes_copies (m := m) 16 0 h hat hsource hlen
  refine ⟨blockDone u, by rw [copyBlock, hu]; rfl, ⟨?_, hcopied.copied, hcopied.others⟩, by rw [blockDone, blockDone, hcolour]⟩
  have hframe := hcopied.frame
  generalize u = w at hframe ⊢
  rw [hframe]
  rfl

theorem AtByte.next {m : Nat} {c : Colour} {t : State} (h : AtByte m c t.colour) : AtByte (m + 16) c (blockDone t).colour where
  src := by
    show t.colour.hdmaSrc + 16#16 = _
    rw [h.src, BitVec.ofNat_add, BitVec.add_assoc]
  dst := by
    show (BitVec.ofNat 16 ((t.colour.hdmaDst.toNat + 16) % 8192)).toNat % 8192 = _
    have := h.dst
    rw [BitVec.toNat_ofNat]
    omega

/-! ### All blocks of a transfer -/

/-- The Colour registers after `b` blocks of a transfer. -/
def afterBlocks (c : Colour) (b : Nat) : Colour :=
  { c with
    hdmaSrc := c.hdmaSrc + BitVec.ofNat 16 (16 * b), hdmaDst := BitVec.ofNat 16 ((c.hdmaDst.toNat + 16 * b) % 8192),
    hdmaLeft := c.hdmaLeft - b }

theorem afterBlocks_zero {c : Colour} (h : c.hdmaDst.toNat < 8192) : afterBlocks c 0 = c := by
  simp [afterBlocks, Nat.mod_eq_of_lt h]

theorem afterBlocks_at (c : Colour) (b : Nat) : AtByte (16 * b) c (afterBlocks c b) where
  src := rfl
  dst := by
    rw [afterBlocks, BitVec.toNat_ofNat]
    omega

theorem afterBlocks_succ {c : Colour} {b : Nat} {t : State} (h : t.colour = afterBlocks c b) :
    (blockDone t).colour = afterBlocks c (b + 1) := by
  have hsrc : c.hdmaSrc + BitVec.ofNat 16 (16 * b) + 16#16 = c.hdmaSrc + BitVec.ofNat 16 (16 * (b + 1)) := by
    rw [BitVec.add_assoc, Nat.mul_succ, BitVec.ofNat_add]
  have hdst : ((BitVec.ofNat 16 ((c.hdmaDst.toNat + 16 * b) % 8192)).toNat + 16) % 8192 = (c.hdmaDst.toNat + 16 * (b + 1)) % 8192 := by
    rw [BitVec.toNat_ofNat]
    omega
  rw [blockDone, h]
  simp only [afterBlocks, hsrc, hdst, Nat.sub_sub]

/-- `n` blocks more, behind the first `b`. -/
theorem copyBlocks_copies {s : State} (n b : Nat) {t : State} (h : VramCopied (16 * b) s t) (hc : t.colour = afterBlocks s.colour b)
    (hsource : ∀ j, j < 16 * (b + n) → PlainSource s (s.colour.hdmaSrc + BitVec.ofNat 16 j)) (hlen : 16 * (b + n) ≤ 8192) :
    ∃ u, repeatRes copyBlock n t = .ok () u ∧ VramCopied (16 * (b + n)) s u ∧ u.colour = afterBlocks s.colour (b + n) := by
  induction n generalizing b t with
  | zero => exact ⟨t, rfl, h, hc⟩
  | succ n ih =>
    obtain ⟨u, hu, hcopied, hcolour⟩ := copyBlock_copies h (hc ▸ afterBlocks_at s.colour b) (fun j hj => hsource j (by omega)) (by omega)
    have hnext : 16 * (b + 1) = 16 * b + 16 := by omega
    have hshift : b + (n + 1) = b + 1 + n := by omega
    rw [hshift] at hsource hlen ⊢
    obtain ⟨w, hw, hdone⟩ := ih (b + 1) (hnext ▸ hcopied) (hcolour.trans (afterBlocks_succ hc)) hsource hlen
    exact ⟨w, by rw [repeatRes, hu]; exact hw, hdone⟩

/-! ### `HDMA5` -/

theorem busOwner_hdma5 {s : State} (h : s.colorMode = true) : busOwner s.colorMode 0xFF55#16 = .io .hdma5 := by
  rw [h]
  decide

theorem hdma5_active : ∀ x : Fin 128, (0#1 ++ BitVec.ofNat 7 x.val : Byte) = BitVec.ofNat 8 x.val := by decide

theorem hdma5_idle : ∀ x : Fin 128, (1#1 ++ BitVec.ofNat 7 x.val : Byte) = BitVec.ofNat 8 (0x80 + x.val) := by decide

theorem busRead_hdma5 {s : State} (hmode : s.colorMode = true) (h : hdmaInRange s.colour = true) :
    busRead s 0xFF55#16 =
      .byte (if s.colour.hdmaActive = true then BitVec.ofNat 8 (s.colour.hdmaLeft - 1)
        else if s.colour.hdmaLeft = 0 then 0xFF#8 else BitVec.ofNat 8 (0x80 + (s.colour.hdmaLeft - 1))) := by
  obtain ⟨hleft, _⟩ := (hdmaInRange_iff _).mp h
  have hlt : s.colour.hdmaLeft - 1 < 128 := by omega
  rw [busRead, busOwner_hdma5 hmode]
  show ReadResult.byte (readHdma5 s.colour) = _
  rw [readHdma5, hdma5_active ⟨_, hlt⟩, hdma5_idle ⟨_, hlt⟩]

theorem busWrite_hdma5 {s : State} (hmode : s.colorMode = true) (v : Byte) : busWrite 0xFF55#16 v s = writeHdma5 v s := by
  rw [busWrite, busOwner_hdma5 hmode]
  rfl

/-- What a start of a transfer loads (R541). -/
def loadedColour (v : Byte) (c : Colour) : Colour :=
  { c with
    hdmaSrc := (c.hdma1 ++ c.hdma2) &&& 0xFFF0#16, hdmaDst := (c.hdma3 ++ c.hdma4) &&& 0x1FF0#16, hdmaLeft := v.toNat % 128 + 1 }

theorem hdmaLoad_eq (v : Byte) (s : State) : hdmaLoad v s = { s with colour := loadedColour v s.colour } := by
  have hcount : (v.extractLsb' 0 7).toNat = v.toNat % 128 := by simp
  rw [hdmaLoad, hcount]
  rfl

theorem loadedColour_dst_lt (v : Byte) (c : Colour) : (loadedColour v c).hdmaDst.toNat < 8192 := by
  show ((c.hdma3 ++ c.hdma4) &&& 0x1FF0#16).toNat < 8192
  rw [BitVec.toNat_and]
  exact Nat.lt_of_le_of_lt Nat.and_le_right (by decide)

/-- The bulk transfer of a machine with no paced one (R541). -/
theorem writeHdma5_bulk {v : Byte} {s : State} (hoff : s.colour.hdmaActive = false) (hv : v.getLsbD 7 = false) :
    writeHdma5 v s =
      (repeatRes copyBlock (v.toNat % 128 + 1) { s with colour := loadedColour v s.colour }).andThen fun _ u => .ok () (hdmaStop u) := by
  rw [writeHdma5, if_neg (by simp [hoff])]
  simp only [hv, Bool.false_eq_true, if_false, hdmaLoad_eq]
  rfl

/-- A source page with no owner, as the address a transfer loads. -/
theorem loadedColour_src_unowned {v : Byte} {c : Colour} (hlo : 0xE0 ≤ c.hdma1.toNat) (hhi : c.hdma1.toNat ≤ 0xFD) :
    0xE000 ≤ (loadedColour v c).hdmaSrc.toNat ∧ (loadedColour v c).hdmaSrc.toNat < 0xFE00 := by
  have hsrc : (loadedColour v c).hdmaSrc = joinBytes c.hdma1 (c.hdma2 &&& 0xF0#8) := joinBytes_and_fff0 _ _
  have hlt := (c.hdma2 &&& 0xF0#8).isLt
  rw [hsrc, toNat_joinBytes]
  omega

/-- A block whose first byte has no owner faults there (R542). -/
theorem copyBlocks_unowned {s : State} (n : Nat) (hlo : 0xE000 ≤ s.colour.hdmaSrc.toNat) (hhi : s.colour.hdmaSrc.toNat < 0xFE00) :
    repeatRes copyBlock (n + 1) s = .raised { s with fault := some (.unmappedAccess s.colour.hdmaSrc .read) } := by
  have hfirst : busRead s (s.colour.hdmaSrc + BitVec.ofNat 16 0) = .fault (.unmappedAccess s.colour.hdmaSrc .read) := by
    rw [BitVec.add_zero]
    exact busRead_nobody hlo hhi
  have hbytes : copyBytes 16 0 s = .raised { s with fault := some (.unmappedAccess s.colour.hdmaSrc .read) } := by
    rw [show (16 : Nat) = 15 + 1 from rfl, copyBytes]
    simp only [hfirst]
    rfl
  rw [repeatRes, copyBlock, hbytes]
  rfl

/-- The bulk transfer from plain sources. -/
theorem writeHdma5_copies {v : Byte} {s : State} (hoff : s.colour.hdmaActive = false) (hv : v.getLsbD 7 = false)
    (hsource : ∀ i, i < 16 * (v.toNat % 128 + 1) → PlainSource s ((loadedColour v s.colour).hdmaSrc + BitVec.ofNat 16 i)) :
    ∃ u, writeHdma5 v s = .ok () (hdmaStop u) ∧ VramCopied (16 * (v.toNat % 128 + 1)) { s with colour := loadedColour v s.colour } u ∧
      u.colour = afterBlocks (loadedColour v s.colour) (v.toNat % 128 + 1) := by
  have hplain (i : Nat) (hi : i < 16 * (0 + (v.toNat % 128 + 1))) :
      PlainSource { s with colour := loadedColour v s.colour } ((loadedColour v s.colour).hdmaSrc + BitVec.ofNat 16 i) := by
    obtain ⟨hdev, hread, hout⟩ := hsource i (by omega)
    exact ⟨hdev, (readable_congr (s := s) (u := { s with colour := loadedColour v s.colour }) _ rfl rfl).trans hread, hout⟩
  obtain ⟨u, hu, hcopied, hcolour⟩ := copyBlocks_copies (s := { s with colour := loadedColour v s.colour }) (v.toNat % 128 + 1) 0
    (.start _) (afterBlocks_zero (loadedColour_dst_lt v s.colour)).symm hplain (by omega)
  rw [Nat.zero_add] at hcopied hcolour
  exact ⟨u, by rw [writeHdma5_bulk hoff hv, hu]; rfl, hcopied, hcolour⟩

/-- Settles O58: the h-blank hook, one block, the read of `HDMA5`, and the four branches of its write. -/
theorem vramDma : Obligations.VramDma := by
  intro s
  refine ⟨fun hidle => ?_, fun t hmode hactive hblock => ?_, fun hsource => ?_, busRead_hdma5, fun v hmode => ?_⟩
  · rw [hBlankDma, if_neg]
    rintro ⟨hmode, hactive⟩
    rcases hidle with h | h
    · exact Bool.false_ne_true (h.symm.trans hmode)
    · exact Bool.false_ne_true (h.symm.trans hactive)
  · rw [hBlankDma, if_pos ⟨hmode, hactive⟩, hblock]
    rfl
  · obtain ⟨u, hu, hcopied, hcolour⟩ := copyBlock_copies (m := 0) (.start s) (.start s.colour) (fun j hj => hsource j (by omega)) (by decide)
    exact ⟨u, hu, by rw [hcolour]; rfl, by rw [hcolour]; rfl, by rw [hcolour]; rfl, fun i hi => hcopied.copied i (by omega)⟩
  · rw [busWrite_hdma5 hmode]
    refine ⟨fun hactive hv => ?_, fun hv => ?_, fun hoff hv hsource => ?_, fun hoff hv hlo hhi => ?_⟩
    · rw [writeHdma5, if_pos ⟨hactive, hv⟩]
      rfl
    · rw [writeHdma5, if_neg (by simp [hv]), hdmaLoad_eq]
      simp only [hv, if_true]
      rfl
    · obtain ⟨u, hu, hcopied, hcolour⟩ := writeHdma5_copies hoff hv hsource
      refine ⟨hdmaStop u, hu, ?_, fun i hi => ?_, fun k hk => hcopied.others k hk⟩
      · have hframe := hcopied.frame
        rw [hcolour] at hframe
        generalize u = w at hframe ⊢
        rw [hframe]
        simp [hdmaStop, afterBlocks, loadedColour]
      · obtain ⟨hdev, _, hout⟩ := hsource i hi
        rw [← busRead_outsideVram s.mem.vram (loadedColour v s.colour) rfl hdev hout]
        exact hcopied.copied i hi
    · obtain ⟨hlo', hhi'⟩ := loadedColour_src_unowned (v := v) hlo hhi
      refine ⟨_, ?_, rfl⟩
      rw [writeHdma5_bulk hoff hv, copyBlocks_unowned (s := { s with colour := loadedColour v s.colour }) _ hlo' hhi']
      rfl

end Sys2Proof.Machine
